-- ==== Sys2Proof/Word.lean ====
section
/-! DEFINITION. The word and byte types, and the small named types that the instruction syntax carries
(00_scope.md R6, R10; 10_state.md R22). Every value of the block is unsigned. -/

namespace Sys2Proof

/-- One 32-bit register, address or length (R6: ADDR_W = 32; R10: unsigned). -/
abbrev Word := BitVec 32

/-- One byte of system memory or of a stream (20_memory.md R75, R76). -/
abbrev Byte := BitVec 8

/-- MODE (10_state.md R22): PERIOD = 0 is chunked streaming, FRAME = 1 is the Vsync/Swap variant. -/
inductive Mode where
  | period
  | frame
deriving DecidableEq, Repr

/-- The width of one access to the register space. Only the 32-bit one is admitted (20_memory.md R78). -/
inductive AccessWidth where
  | w32
  | w8
  | w16
  | w64
deriving DecidableEq, Repr

/-- The largest address, 0xFFFFFFFF (20_memory.md R70). -/
abbrev maxAddr : Nat := 0xFFFFFFFF

/-- A word from a natural number. Every use has a bound below 2^32 in the states that R52 to R58 allow. -/
abbrev word (n : Nat) : Word := BitVec.ofNat 32 n

end Sys2Proof
end

