-- ==== Sys2Proof/Config.lean ====
section
/-! DEFINITION. What an instance of the block fixes (00_scope.md R6), the block's constants, and the free values:
opaque constants with no body, so that no proof can see them and a claim holds whatever they are. -/

namespace Sys2Proof

/-- ADDR_W, the width of every address and length register (R6, D2). -/
def Config.addrW : Nat := 32

/-- N_PORTS of the reference instance (R6, D9). The number of ports of a machine is the length of its port list. -/
def Config.defaultPorts : Nat := 4

/-- The largest N_PORTS (R6), and the number of port slots the register window has (10_state.md R35). -/
def Config.maxPorts : Nat := 120

/-- The ID register's constant (10_state.md R36). -/
def Config.idValue : Word := 0x43444D41#32

/-- CAPS.VERSION (10_state.md R37). -/
def Config.version : BitVec 8 := 0x01#8

/-- The 4096-byte page of the register window. BASE is an open parameter of the platform (R6, D4): a free value. -/
opaque Config.basePage : BitVec 20

/-- BASE, the bus address of register offset 0x000, aligned to 4096 bytes (R6, 20_memory.md R82). -/
def Config.base : Word := Config.basePage ++ 0#12

/-- FRAME_BYTES - 1. FRAME_BYTES is an open parameter of the glue outside the block (R6, D24): a free value. -/
opaque Config.frameBytesLess1 : Nat

/-- FRAME_BYTES, bytes per audio frame, above 0 (R6). No step of the block reads it. -/
def Config.frameBytes : Nat := Config.frameBytesLess1 + 1

/-- The draw of STOP number `n` on an active channel (41_engine.md R165): true is DRAIN, false is ABORT. -/
opaque Config.stopDrains : Nat → Bool

/-- What a byte of system memory holds at address `a` before anything is stored there: the answer of the memory, which
the spec leaves to the environment (20_memory.md R75, 10_state.md R62). -/
opaque Config.memoryByte : Nat → Byte

/-- The byte the channel moves from an address that a host wrote while its chunk was armed, at draw `n`
(20_memory.md R87). -/
opaque Config.racedByte : Nat → Byte

/-- Byte number `n` of the source stream (20_memory.md R76: drawn, and never empty). -/
opaque Config.sourceByte : Nat → Byte

/-- Whether a host read of a byte the channel has not yet written returns the new value, at draw `n`
(20_memory.md R87: either the old value or the new one). -/
opaque Config.hostReadsNew : Nat → Bool

end Sys2Proof
end

