-- ==== Sys2Proof/Syntax.lean ====
section
/-! DEFINITION. The instruction syntax: one constructor per row of spec/opcode_table.json, that is the seven
commands of 30_encoding.md R102 and the eight events of R108. Raw encodings stay in Decode.lean. -/

namespace Sys2Proof

/-- One step of the block (00_scope.md R2, R7). A command carries the port `p` whose CMD register is written
(30_encoding.md R103); its operands are that port's ARG registers and are read by its meaning. An event carries the
fields the opcode table names for it. -/
inductive Instr where
  /-- OPEN(p, m), 41_engine.md R155. -/
  | openCmd (p : Nat) (m : Mode)
  /-- CLOSE(p), 41_engine.md R158. -/
  | close (p : Nat)
  /-- START(p), 41_engine.md R160. -/
  | start (p : Nat)
  /-- STOP(p), 41_engine.md R165. -/
  | stop (p : Nat)
  /-- GETOFF(p), 43_position.md R220. -/
  | getoff (p : Nat)
  /-- REQADDR(p), 44_vsync.md R245. -/
  | reqaddr (p : Nat)
  /-- WAITGEN(p), 44_vsync.md R250. -/
  | waitgen (p : Nat)
  /-- BEAT: the channel moves `k` bytes, 41_engine.md R170. -/
  | beat (k : Nat)
  /-- COMPLETE, 42_completion.md R190. -/
  | complete
  /-- NOTIFY, 42_completion.md R195. -/
  | notify
  /-- WAIT_TIMEOUT(p), 44_vsync.md R255. -/
  | waitTimeout (p : Nat)
  /-- STRAY_DONE, 42_completion.md R200. -/
  | strayDone
  /-- RESET, 70_reset_and_hazards.md R340. -/
  | reset
  /-- MMIO_READ(off, width), 45_host_interface.md R271. -/
  | mmioRead (off : BitVec 12) (w : AccessWidth)
  /-- MMIO_WRITE(off, v, width), 45_host_interface.md R272. -/
  | mmioWrite (off : BitVec 12) (w : AccessWidth) (v : Word)
deriving DecidableEq, Repr

end Sys2Proof
end

