-- ==== Sys2Proof/WellFormed.lean ====
section
/-! DEFINITION. Which instruction terms are steps the spec can name: a port slot of the register window
(10_state.md R35) and a beat of at least one byte (41_engine.md R170). -/

namespace Sys2Proof

/-- A port slot of the 4096-byte window: 0x100 + 0x20·p lies in it exactly when p < 120 (10_state.md R35). -/
def Instr.portOk (p : Nat) : Bool := decide (p < Config.maxPorts)

/-- A beat moves between 1 and 2^32 bytes as syntax; the machine holds it to CH_REM (41_engine.md R170). -/
def Instr.beatOk (k : Nat) : Bool := decide (1 ≤ k ∧ k ≤ 2 ^ 32)

/-- The well-formed instructions. -/
def Instr.wellFormed : Instr → Bool
  | .openCmd p _ => Instr.portOk p
  | .close p => Instr.portOk p
  | .start p => Instr.portOk p
  | .stop p => Instr.portOk p
  | .getoff p => Instr.portOk p
  | .reqaddr p => Instr.portOk p
  | .waitgen p => Instr.portOk p
  | .beat k => Instr.beatOk k
  | .complete => true
  | .notify => true
  | .waitTimeout p => Instr.portOk p
  | .strayDone => true
  | .reset => true
  | .mmioRead _ _ => true
  | .mmioWrite _ _ _ => true

end Sys2Proof
end

