-- ==== Sys2Proof/Decode.lean ====
section
/-! DEFINITION. Decoding: the command word CW (30_encoding.md R100 to R106) and the event labels (R108), then the
encoder, then the table reader the host asks. An Entry is one item of the feed (the schedule of the run): a command
word on a port, an event record, a host master's access to system memory, or a turn of a host master's program. -/

namespace Sys2Proof

/-- The seven commands of 30_encoding.md R102, before the port that issues them is known. -/
inductive Cmd where
  | openSession (m : Mode)
  | close
  | start
  | stop
  | getoff
  | reqaddr
  | waitgen
deriving DecidableEq, Repr

/-- Why an entry is no instruction. The first three are the illegal command words of 30_encoding.md R104. -/
inductive DecodeError where
  /-- RSVD, bits 31..9 of a command word, is not 0 (R104). -/
  | reservedBits
  /-- M = 1 and OP is not OPEN (R101, R104). -/
  | modeBit
  /-- OP is 0x00 or in 0x08 to 0xFF (R104). -/
  | illegalOpcode
  /-- An event record whose label is none of R108's. -/
  | unknownLabel
  /-- An event record with a nonzero field that its event does not have. -/
  | unusedField
  /-- A port number with no slot in the register window (10_state.md R35). -/
  | badPort
  /-- A register offset outside [0, 0x1000) (45_host_interface.md R271). -/
  | badOffset
  /-- An access-width code that names no width. -/
  | badWidth
  /-- A host access to system memory: no row of the opcode table. -/
  | hostAccess
  /-- A turn of a host program: the register access it performs is the program's next one. -/
  | hostTurn
deriving DecidableEq, Repr

/-- One item of the feed. `command p w` is a host master's write of the command word `w` to CMD of port `p`
(45_host_interface.md R275); `event r` is the step whose label and fields `r` holds (30_encoding.md R108);
`hostStore a b` and `hostLoad a` are a host master's store to and load from system memory (20_memory.md R87);
`hostTurn m` is the next register access of host master `m`'s own program (20_memory.md R86; log entry 25). -/
inductive Entry where
  | command (p : Nat) (w : Word)
  | event (r : BitVec 64)
  | hostStore (a : Word) (b : Byte)
  | hostLoad (a : Word)
  | hostTurn (m : Nat)
deriving DecidableEq, Repr

/-- OP, bits 7..0 of a command word (30_encoding.md R100). -/
def cwOp (w : Word) : BitVec 8 := w.extractLsb' 0 8

/-- M, bit 8 of a command word (R100). -/
def cwM (w : Word) : Bool := w.getLsbD 8

/-- RSVD, bits 31..9 of a command word (R100). -/
def cwRsvd (w : Word) : BitVec 23 := w.extractLsb' 9 23

/-- The mode that M selects (R101). -/
def modeOfBit (m : Bool) : Mode := if m then .frame else .period

/-- `decode(w)` of 30_encoding.md R105: every 32-bit word is one of the seven commands, or illegal. -/
def decodeCmd (w : Word) : Except DecodeError Cmd :=
  if cwRsvd w ≠ 0#23 then .error .reservedBits
  else if cwOp w = 0x01#8 then .ok (.openSession (modeOfBit (cwM w)))
  else if cwM w then .error .modeBit
  else if cwOp w = 0x02#8 then .ok .close
  else if cwOp w = 0x03#8 then .ok .start
  else if cwOp w = 0x04#8 then .ok .stop
  else if cwOp w = 0x05#8 then .ok .getoff
  else if cwOp w = 0x06#8 then .ok .reqaddr
  else if cwOp w = 0x07#8 then .ok .waitgen
  else .error .illegalOpcode

/-- The instruction that command `c` is on port `p` (45_host_interface.md R275). -/
def Cmd.onPort (p : Nat) : Cmd → Instr
  | .openSession m => .openCmd p m
  | .close => .close p
  | .start => .start p
  | .stop => .stop p
  | .getoff => .getoff p
  | .reqaddr => .reqaddr p
  | .waitgen => .waitgen p

/-- The fields of an event record. The spec gives an event its 8-bit label (R108) and names its fields, and lays out no
record: DESIGN CHOICE (log entry 2), bits 7..0 the label, 15..8 a port or an access width, 31..16 a register offset,
63..32 a beat size less 1 or a written value. -/
def evLabel (r : BitVec 64) : BitVec 8 := r.extractLsb' 0 8

/-- Bits 15..8 of an event record: a port number or an access-width code. -/
def evSel (r : BitVec 64) : BitVec 8 := r.extractLsb' 8 8

/-- Bits 31..16 of an event record: a register offset. -/
def evOff (r : BitVec 64) : BitVec 16 := r.extractLsb' 16 16

/-- Bits 63..32 of an event record: a beat size less 1, or a written value. -/
def evArg (r : BitVec 64) : Word := r.extractLsb' 32 32

/-- The access width that a width code names. -/
def widthOfCode (c : BitVec 8) : Except DecodeError AccessWidth :=
  if c = 0#8 then .ok .w32
  else if c = 1#8 then .ok .w8
  else if c = 2#8 then .ok .w16
  else if c = 3#8 then .ok .w64
  else .error .badWidth

/-- An event with no field at all. -/
def plainEvent (r : BitVec 64) (i : Instr) : Except DecodeError Instr :=
  if evSel r = 0#8 ∧ evOff r = 0#16 ∧ evArg r = 0#32 then .ok i else .error .unusedField

/-- The register offset of an MMIO record, in [0, 0x1000) (45_host_interface.md R271). -/
def offsetOf (r : BitVec 64) : Except DecodeError (BitVec 12) :=
  if (evOff r).extractLsb' 12 4 = 0#4 then .ok ((evOff r).extractLsb' 0 12) else .error .badOffset

/-- BEAT's record (41_engine.md R170). -/
def decodeBeat (r : BitVec 64) : Except DecodeError Instr :=
  if evSel r = 0#8 ∧ evOff r = 0#16 then .ok (.beat ((evArg r).toNat + 1)) else .error .unusedField

/-- WAIT_TIMEOUT's record (44_vsync.md R255). -/
def decodeWaitTimeout (r : BitVec 64) : Except DecodeError Instr :=
  if evOff r ≠ 0#16 ∨ evArg r ≠ 0#32 then .error .unusedField
  else if (evSel r).toNat < Config.maxPorts then .ok (.waitTimeout (evSel r).toNat)
  else .error .badPort

/-- MMIO_READ's record (45_host_interface.md R271). -/
def decodeMmioRead (r : BitVec 64) : Except DecodeError Instr :=
  if evArg r ≠ 0#32 then .error .unusedField
  else
    match offsetOf r, widthOfCode (evSel r) with
    | .ok off, .ok w => .ok (.mmioRead off w)
    | .error e, _ => .error e
    | .ok _, .error e => .error e

/-- MMIO_WRITE's record (45_host_interface.md R272). -/
def decodeMmioWrite (r : BitVec 64) : Except DecodeError Instr :=
  match offsetOf r, widthOfCode (evSel r) with
  | .ok off, .ok w => .ok (.mmioWrite off w (evArg r))
  | .error e, _ => .error e
  | .ok _, .error e => .error e

/-- An event record: its label picks the event (30_encoding.md R108). -/
def decodeEvent (r : BitVec 64) : Except DecodeError Instr :=
  if evLabel r = 0x80#8 then decodeBeat r
  else if evLabel r = 0x81#8 then plainEvent r .complete
  else if evLabel r = 0x82#8 then plainEvent r .notify
  else if evLabel r = 0x83#8 then decodeWaitTimeout r
  else if evLabel r = 0x84#8 then plainEvent r .strayDone
  else if evLabel r = 0x85#8 then plainEvent r .reset
  else if evLabel r = 0x90#8 then decodeMmioRead r
  else if evLabel r = 0x91#8 then decodeMmioWrite r
  else .error .unknownLabel

/-- The decoder, total on every entry of the feed. -/
def decode : Entry → Except DecodeError Instr
  | .command p w =>
    if p < Config.maxPorts then
      match decodeCmd w with
      | .ok c => .ok (c.onPort p)
      | .error e => .error e
    else .error .badPort
  | .event r => decodeEvent r
  | .hostStore _ _ => .error .hostAccess
  | .hostLoad _ => .error .hostAccess
  | .hostTurn _ => .error .hostTurn

/-- M for a mode (30_encoding.md R101). -/
def bitOfMode : Mode → BitVec 1
  | .period => 0#1
  | .frame => 1#1

/-- A command word from its fields: RSVD = 0, then M, then OP (R100). -/
def cwWord (m : BitVec 1) (op : BitVec 8) : Word := 0#23 ++ m ++ op

/-- The width code of an access width. -/
def codeOfWidth : AccessWidth → BitVec 8
  | .w32 => 0#8
  | .w8 => 1#8
  | .w16 => 2#8
  | .w64 => 3#8

/-- An event record from its fields. -/
def evRecord (arg : Word) (off : BitVec 16) (sel label : BitVec 8) : BitVec 64 := arg ++ off ++ sel ++ label

/-- The encoder, written from the tables of 30_encoding.md R102 and R108. -/
def encode : Instr → Entry
  | .openCmd p m => .command p (cwWord (bitOfMode m) 0x01#8)
  | .close p => .command p (cwWord 0#1 0x02#8)
  | .start p => .command p (cwWord 0#1 0x03#8)
  | .stop p => .command p (cwWord 0#1 0x04#8)
  | .getoff p => .command p (cwWord 0#1 0x05#8)
  | .reqaddr p => .command p (cwWord 0#1 0x06#8)
  | .waitgen p => .command p (cwWord 0#1 0x07#8)
  | .beat k => .event (evRecord (word (k - 1)) 0#16 0#8 0x80#8)
  | .complete => .event (evRecord 0#32 0#16 0#8 0x81#8)
  | .notify => .event (evRecord 0#32 0#16 0#8 0x82#8)
  | .waitTimeout p => .event (evRecord 0#32 0#16 (BitVec.ofNat 8 p) 0x83#8)
  | .strayDone => .event (evRecord 0#32 0#16 0#8 0x84#8)
  | .reset => .event (evRecord 0#32 0#16 0#8 0x85#8)
  | .mmioRead off w => .event (evRecord 0#32 (0#4 ++ off) (codeOfWidth w) 0x90#8)
  | .mmioWrite off w v => .event (evRecord v (0#4 ++ off) (codeOfWidth w) 0x91#8)

/-- The feed entry of a row of spec/opcode_table.json: a row of at most 8 bits is an event label (fields of zeros), a
wider row is a command word, on port 0. -/
def entryOfTable (nbits w : Nat) : Entry :=
  if nbits ≤ 8 then .event (BitVec.ofNat 64 w) else .command 0 (word w)

/-- What this decoder reads from a row of the table whose bits are `w`. -/
def decodeTableWord (nbits w : Nat) : Option Instr :=
  match decode (entryOfTable nbits w) with
  | .ok i => some i
  | .error _ => none

end Sys2Proof
end

