-- ==== Sys2Proof/Machine/State.lean ====
section
/-! DEFINITION. The state of the machine as plain data: every element of 10_state.md R22 to R33, the instance
parameters of 00_scope.md R6 that vary between instances, and the environment the block acts on (system memory, the two
streams, the bus's read data, the host masters' programs and the schedule of the run). Reset values: 10_state.md R60. -/

namespace Sys2Proof.Machine

/-- SESSION (R22). -/
inductive Session where
  | closed
  | opened
deriving DecidableEq, Repr

/-- ENGINE (R22), the source's EngineState. -/
inductive EngineState where
  | idle
  | running
deriving DecidableEq, Repr

/-- NOTIFY_PENDING (R27): NONE = 0, PERIOD = 1, FRAME = 2. The value 3 does not exist. -/
inductive NotifyKind where
  | none
  | period
  | frame
deriving DecidableEq, Repr

/-- The status codes (60_exceptions.md R300): exactly the five named values. -/
inductive Code where
  | ok
  | invalidConfig
  | hwNotResponding
  | illegalCommand
  | zeroLength
deriving DecidableEq, Repr

/-- DIRECTION (00_scope.md R6). -/
inductive Direction where
  | memToSink
  | sourceToMem
deriving DecidableEq, Repr

/-- The TransferWindow (R23): WIN_START, WIN_END, WIN_LEN, WIN_PERIOD, WIN_SINK, WIN_POS, WIN_CHUNK. -/
structure Window where
  start  : Word
  fin    : Word
  len    : Word
  period : Word
  sink   : Word
  pos    : Word
  chunk  : Word
deriving DecidableEq, Repr

/-- The DMA channel (R25): CH_ACTIVE, CH_SRC, CH_DST, CH_LEN, CH_REM, CH_DONE. -/
structure Channel where
  active : Bool
  src    : Word
  dst    : Word
  len    : Word
  rem    : Word
  done   : Bool
deriving DecidableEq, Repr

/-- One host port (R33): ARG0 to ARG3, RESULT, CODE, BUSY, WAIT_TARGET, WAIT_TMO. -/
structure Port where
  arg0       : Word
  arg1       : Word
  arg2       : Word
  arg3       : Word
  result     : Word
  code       : Code
  busy       : Bool
  waitTarget : Word
  waitTmo    : Word
deriving DecidableEq, Repr

/-- System memory (20_memory.md R70): the bytes that have been stored, at rising addresses. An address that is not
listed has no stored byte. -/
abbrev Memory := List Host.Cell

/-- One byte of the sink stream with the I/O location it was written to (20_memory.md R76; 10_state.md R25 CH_DST). -/
structure SinkByte where
  dst  : Word
  byte : Byte
deriving DecidableEq, Repr

/-- One operation of a host program (30_encoding.md R110 to R112): a 32-bit register read, a 32-bit register write, or
WAITDONE, the read of port `p`'s PSTATUS that is repeated until bit 31 is 0. -/
inductive HostOp where
  | read (off : BitVec 12)
  | write (off : BitVec 12) (v : Word)
  | waitdone (p : Nat)
deriving DecidableEq, Repr

/-- The parameters of an instance that a state carries (00_scope.md R6), which no step changes: HAS_REMAINING_COUNTER,
DIRECTION, and the platform's absent address ranges (20_memory.md R71: low inclusive, high exclusive). N_PORTS is the
number of ports; ADDR_W, BASE and FRAME_BYTES stand in Config. -/
structure Params where
  hasRemainingCounter : Bool
  direction           : Direction
  holes               : List (Nat × Nat)
deriving DecidableEq, Repr

/-- The whole state. From `params` to `ports` it is the block's; from `mem` to `draws` it is the environment's and the
model's own (log entries 1, 3, 4, 5, 6, 25). `hosts` holds what each host master has still to do, in its order
(20_memory.md R86). -/
structure State where
  params        : Params
  session       : Session
  engine        : EngineState
  mode          : Mode
  win           : Window
  ch            : Channel
  notifyPending : NotifyKind
  periodCount   : Word
  gen           : Word
  pendAddr      : Word
  pendValid     : Bool
  irqStatus     : BitVec 2
  irqEnable     : BitVec 2
  faultZl       : Bool
  ports         : List Port
  mem           : Memory
  sink          : List SinkByte
  sourceTaken   : Nat
  raced         : List Nat
  busData       : Word
  hosts         : List (List HostOp)
  feed          : List Entry
  draws         : Nat
deriving DecidableEq, Repr

/-- Why a step stops with a fault. -/
inductive Fault where
  /-- Raised by MMIO_READ and MMIO_WRITE for an access of a width other than 32 bits or at a misaligned offset, naming
  the offset: 60_exceptions.md R308, "A model records a bus error as a fault of the run". Safe. -/
  | busError (off : BitVec 12)
  /-- Raised by an enabled BEAT, or by a host master's access, at an address that names no memory (20_memory.md R71;
  93_implementation_defined.md S6, "stuck"), naming the address. Safe. -/
  | noMemory (addr : Nat)
deriving DecidableEq, Repr

/-- Why a step has no meaning. -/
inductive Refusal where
  /-- Raised by an arm of exec whose instruction has no meaning yet. No arm raises it. Safe. -/
  | notModelled (mnemonic : String)
  /-- Raised by step for an entry of the feed that stands for no step of the spec: an event record that no event has,
  or a command word for a port slot outside the register window. Safe. -/
  | undecodable (e : DecodeError)
deriving DecidableEq, Repr

/-- The TransferWindow after reset (R60). -/
def Window.reset : Window :=
  { start := 0#32, fin := 0#32, len := 0#32, period := 0#32, sink := 0#32, pos := 0#32, chunk := 0#32 }

/-- The channel after reset (R60). -/
def Channel.reset : Channel :=
  { active := false, src := 0#32, dst := 0#32, len := 0#32, rem := 0#32, done := false }

/-- A port after reset (R60). -/
def Port.reset : Port :=
  { arg0 := 0#32, arg1 := 0#32, arg2 := 0#32, arg3 := 0#32, result := 0#32, code := .ok, busy := false,
    waitTarget := 0#32, waitTmo := 0#32 }

/-- The reference instance's parameters (00_scope.md R6), on a platform with memory at every address. -/
def Params.reference : Params :=
  { hasRemainingCounter := true, direction := .memToSink, holes := [] }

/-- The reference instance right after reset (R60, 70_reset_and_hazards.md R341): nothing stored in memory, nothing on
the streams, no host program, and nothing in the feed. -/
def State.reset : State :=
  { params := Params.reference
    session := .closed
    engine := .idle
    mode := .period
    win := Window.reset
    ch := Channel.reset
    notifyPending := .none
    periodCount := 0#32
    gen := 0#32
    pendAddr := 0#32
    pendValid := false
    irqStatus := 0#2
    irqEnable := 0#2
    faultZl := false
    ports := List.replicate Config.defaultPorts Port.reset
    mem := []
    sink := []
    sourceTaken := 0
    raced := []
    busData := 0#32
    hosts := []
    feed := []
    draws := 0 }

/-- The answer type of every meaning. -/
abbrev Answer := Host.Outcome State Fault Refusal

end Sys2Proof.Machine
end

