-- ==== Sys2Proof/Machine/Ops.lean ====
section
/-! DEFINITION. The named operations over memory, streams, ports and the channel, and the shared ways an error is
reported: finish (45_host_interface.md R276), raise FAULT (60_exceptions.md R306) and raise BUS_ERROR (R308). -/

namespace Sys2Proof.Machine

/-- A state with its window replaced. -/
def State.setWin (w : Window) (s : State) : State := { s with win := w }

/-- A state with its channel replaced. -/
def State.setCh (c : Channel) (s : State) : State := { s with ch := c }

/-- A state with its engine state replaced. -/
def State.setEngine (e : EngineState) (s : State) : State := { s with engine := e }

/-- A state with NOTIFY_PENDING replaced. -/
def State.setNotify (n : NotifyKind) (s : State) : State := { s with notifyPending := n }

/-- The stored byte at an address, or none. -/
def Memory.read? : Memory → Nat → Option Byte
  | [], _ => none
  | (a, b) :: rest, x => if a = x then some b else Memory.read? rest x

/-- Store one byte, keeping the addresses strictly rising. -/
def Memory.write : Memory → Nat → Byte → Memory
  | [], x, v => [(x, v)]
  | (a, b) :: rest, x, v =>
    if x < a then (x, v) :: (a, b) :: rest
    else if x = a then (x, v) :: rest
    else (a, b) :: Memory.write rest x v

/-- Addresses strictly rising, none below `lo` and none above 0xFFFFFFFF. -/
def Memory.risingFrom : Nat → Memory → Bool
  | _, [] => true
  | lo, (a, _) :: rest => decide (lo ≤ a ∧ a ≤ maxAddr) && Memory.risingFrom (a + 1) rest

/-- The canonical form: equal memories are equal lists. -/
def Memory.wf (m : Memory) : Bool := Memory.risingFrom 0 m

/-- Add an address to a strictly rising list of addresses. -/
def insertAddr : List Nat → Nat → List Nat
  | [], x => [x]
  | a :: rest, x => if x < a then x :: a :: rest else if x = a then a :: rest else a :: insertAddr rest x

/-- The canonical form of a list of addresses. -/
def addrsRising : Nat → List Nat → Bool
  | _, [] => true
  | lo, a :: rest => decide (lo ≤ a) && addrsRising (a + 1) rest

/-- Whether an address names memory on this platform (20_memory.md R70, R71). The register window at BASE is no hole of its
own: DESIGN CHOICE (log entry 26), a platform that has none of its memory there lists the range among `holes`. -/
def Params.admits (q : Params) (a : Nat) : Bool :=
  decide (a ≤ maxAddr) && q.holes.all fun h => decide (a < h.1 ∨ h.2 ≤ a)

/-- The first of the `n` addresses from `a` on that names no memory. -/
def Params.firstAbsent (q : Params) : Nat → Nat → Option Nat
  | 0, _ => none
  | n + 1, a => if q.admits a then Params.firstAbsent q n (a + 1) else some a

/-- The byte that system memory holds at an address: the last one stored, or else the environment's (R75). -/
def State.memByte (s : State) (a : Nat) : Byte :=
  match Memory.read? s.mem a with
  | some b => b
  | none => Config.memoryByte a

/-- `MemRead(a, 1)` by the channel (R75). A byte that a host wrote while the chunk was armed is a draw (R87). -/
def State.chanRead (s : State) (a : Nat) : Byte :=
  if a ∈ s.raced then Config.racedByte s.draws else s.memByte a

/-- The draw counter after `chanRead`. -/
def State.afterChanRead (s : State) (a : Nat) : State :=
  { s with draws := if a ∈ s.raced then s.draws + 1 else s.draws }

/-- `SinkWrite(b)` (R76): append to the sink stream, at the channel's sink address (10_state.md R25 CH_DST). -/
def State.sinkWrite (b : Byte) (s : State) : State :=
  { s with sink := s.sink ++ [{ dst := s.ch.dst, byte := b }] }

/-- `MemWrite(a, 1, v)` (R75). -/
def State.memWrite (a : Nat) (v : Byte) (s : State) : State :=
  { s with mem := Memory.write s.mem a v }

/-- `SourceRead()` (R76): the next byte of the source stream. -/
def State.sourceNext (s : State) : Byte := Config.sourceByte s.sourceTaken

/-- The source stream after `SourceRead()`. -/
def State.afterSource (s : State) : State := { s with sourceTaken := s.sourceTaken + 1 }

/-- Change port `p`, where there is one. -/
def State.updPort (p : Nat) (f : Port → Port) (s : State) : State :=
  { s with ports := s.ports.modify p f }

/-- What finish leaves in a port (R276). -/
def Port.finish (code : Code) (result : Word) (q : Port) : Port :=
  { q with code := code, result := result, busy := false }

/-- `finish(p, code, result)` (45_host_interface.md R276). -/
def State.finish (p : Nat) (code : Code) (result : Word) (s : State) : State :=
  s.updPort p (Port.finish code result)

/-- Run a command on port `p`, handing it the port as it stands. A port slot at or above N_PORTS ignores the CMD write
(10_state.md R46), and so does a BUSY port (45_host_interface.md R275). -/
def State.onPort (p : Nat) (f : Port → State → State) (s : State) : State :=
  match s.ports[p]? with
  | none => s
  | some q => if q.busy then s else f q s

/-- `raise FAULT(ZERO_LENGTH)` (60_exceptions.md R306): FAULT_ZL and IRQ_STATUS.FAULT are set, and the block goes on. -/
def State.raiseZeroLength (s : State) : State :=
  { s with faultZl := true, irqStatus := s.irqStatus ||| 0b10#2 }

/-- `raise BUS_ERROR(off)` (60_exceptions.md R308): a fault of the run that names the offset. No state is left. -/
def raiseBusError (off : BitVec 12) : Answer := .fault (.busError off)

/-- How arm ends (41_engine.md R150). -/
inductive ArmResult where
  | armOk
  | armZero
deriving DecidableEq, Repr

/-- `arm()` (41_engine.md R150): the channel is reset first, then programmed unless the chunk is empty (R151). A newly
armed chunk has met no host store yet (20_memory.md R87). -/
def State.arm (s : State) : State × ArmResult :=
  if s.win.chunk = 0#32 then
    ({ s with ch := { s.ch with active := false, done := false, rem := 0#32 }, raced := [] }, .armZero)
  else
    ({ s with
        ch := { active := true, src := s.win.pos, dst := s.win.sink, len := s.win.chunk, rem := s.win.chunk, done := false }
        raced := [] },
      .armOk)

end Sys2Proof.Machine
end

