-- ==== Sys2Proof/Machine/Flags.lean ====
section
/-! DEFINITION. Flags and status words: the bit layouts of CAPS, STATE, IRQ_STATUS, IRQ_ENABLE and PSTATUS
(10_state.md R37 to R40, R50), the interrupt line (60_exceptions.md R310), the reached test (44_vsync.md R240) and the
enabling condition of every event (41_engine.md R170, 42_completion.md R190, R195, R200, 44_vsync.md R255). -/

namespace Sys2Proof.Machine

/-- One bit from a Bool. -/
def bit (b : Bool) : BitVec 1 := BitVec.ofBool b

/-- PSTATUS[3:0] of a status code (60_exceptions.md R300). -/
def Code.bits : Code → BitVec 4
  | .ok => 0#4
  | .invalidConfig => 1#4
  | .hwNotResponding => 2#4
  | .illegalCommand => 3#4
  | .zeroLength => 4#4

/-- NOTIFY_PENDING as STATE[7:6] shows it (R27, R38). -/
def NotifyKind.bits : NotifyKind → BitVec 2
  | .none => 0#2
  | .period => 1#2
  | .frame => 2#2

/-- SESSION as STATE[0] shows it (R22). -/
def Session.toBit : Session → BitVec 1
  | .closed => 0#1
  | .opened => 1#1

/-- ENGINE as STATE[1] shows it (R22). -/
def EngineState.toBit : EngineState → BitVec 1
  | .idle => 0#1
  | .running => 1#1

/-- DIRECTION as CAPS[1] shows it (R37). -/
def Direction.toBit : Direction → BitVec 1
  | .memToSink => 0#1
  | .sourceToMem => 1#1

/-- The CAPS register (R37). -/
def State.capsWord (s : State) : Word :=
  Config.version ++ BitVec.ofNat 8 Config.addrW ++ BitVec.ofNat 8 s.ports.length ++ 0#6
    ++ s.params.direction.toBit ++ bit s.params.hasRemainingCounter

/-- The STATE register (R38). -/
def State.stateWord (s : State) : Word :=
  0#23 ++ bit s.faultZl ++ s.notifyPending.bits ++ bit s.pendValid ++ bit s.ch.done ++ bit s.ch.active
    ++ bitOfMode s.mode ++ s.engine.toBit ++ s.session.toBit

/-- The PSTATUS register of a port (R50). -/
def Port.pstatus (q : Port) : Word := bit q.busy ++ 0#27 ++ q.code.bits

/-- A host write of `v` to IRQ_STATUS clears each bit that is 1 in `v` (R39). -/
def clearOnes (status : BitVec 2) (v : Word) : BitVec 2 := status &&& ~~~(v.extractLsb' 0 2)

/-- IRQ_STATUS with PE, bit 0, set (42_completion.md R195). -/
def setPE (status : BitVec 2) : BitVec 2 := status ||| 0b01#2

/-- The interrupt output (10_state.md R31, 60_exceptions.md R310). -/
def State.irqLine (s : State) : Bool := decide (s.irqStatus &&& s.irqEnable ≠ 0#2)

/-- `reached(g, t)` (44_vsync.md R240's pseudocode; log entry 23), a serial-number comparison. -/
def reached (g t : Word) : Bool := decide ((g - t).toNat < 2 ^ 31)

/-- The NOTIFY_PENDING value that a period completed in `m` leaves (42_completion.md R190). -/
def NotifyKind.ofMode : Mode → NotifyKind
  | .period => .period
  | .frame => .frame

/-- BEAT of `k` bytes is enabled: the channel is active and `k` is in [1, CH_REM] (41_engine.md R170). -/
def State.beatEnabled (s : State) (k : Nat) : Bool := s.ch.active && decide (1 ≤ k ∧ k ≤ s.ch.rem.toNat)

/-- COMPLETE is enabled (42_completion.md R190). -/
def State.completeEnabled (s : State) : Bool := s.ch.done && decide (s.notifyPending = .none)

/-- NOTIFY is enabled (42_completion.md R195). -/
def State.notifyEnabled (s : State) : Bool := decide (s.notifyPending ≠ .none)

/-- WAIT_TIMEOUT of port `p` is enabled (44_vsync.md R255). -/
def State.waitTimeoutEnabled (s : State) (p : Nat) : Bool :=
  match s.ports[p]? with
  | none => false
  | some q => q.busy

/-- STRAY_DONE is enabled (42_completion.md R200). -/
def State.strayDoneEnabled (s : State) : Bool := decide (s.engine = .idle)

end Sys2Proof.Machine
end

