-- ==== Sys2Proof/Machine/Operands.lean ====
section
/-! DEFINITION. The operand forms: the register map of 10_state.md R35, what each register reads (R36 to R50), and a
port's ARG registers (30_encoding.md R103). -/

namespace Sys2Proof.Machine

/-- The registers of the map (R35). -/
inductive Reg where
  | id
  | caps
  | state
  | irqStatus
  | irqEnable
  | periodCount
  | generation
  | winPos
  | winChunk
  | chRem
  | winStart
  | winEnd
  | winPeriod
  | winSink
  | pendAddr
  | winLen
  | arg (p : Nat) (k : Fin 4)
  | cmd (p : Nat)
  | result (p : Nat)
  | pstatus (p : Nat)
  | reserved
deriving DecidableEq, Repr

/-- The block registers, offsets 0x000 to 0x0FC (R35). -/
def blockReg (off : Nat) : Reg :=
  if off = 0x000 then .id
  else if off = 0x004 then .caps
  else if off = 0x008 then .state
  else if off = 0x00C then .irqStatus
  else if off = 0x010 then .irqEnable
  else if off = 0x014 then .periodCount
  else if off = 0x018 then .generation
  else if off = 0x01C then .winPos
  else if off = 0x020 then .winChunk
  else if off = 0x024 then .chRem
  else if off = 0x028 then .winStart
  else if off = 0x02C then .winEnd
  else if off = 0x030 then .winPeriod
  else if off = 0x034 then .winSink
  else if off = 0x038 then .pendAddr
  else if off = 0x03C then .winLen
  else .reserved

/-- The registers of port slot `p`, offsets 0x00 to 0x1C within it (R35). -/
def portReg (p : Nat) (sub : Nat) : Reg :=
  if sub = 0x00 then .arg p 0
  else if sub = 0x04 then .arg p 1
  else if sub = 0x08 then .arg p 2
  else if sub = 0x0C then .arg p 3
  else if sub = 0x10 then .cmd p
  else if sub = 0x14 then .result p
  else if sub = 0x18 then .pstatus p
  else .reserved

/-- The register at an offset (R35). A port slot at or above N_PORTS has no port, so reads and writes of it find
none (R46). -/
def regOf (off : BitVec 12) : Reg :=
  if off.toNat < 0x100 then blockReg off.toNat
  else portReg ((off.toNat - 0x100) / 0x20) ((off.toNat - 0x100) % 0x20)

/-- PB(p) = 0x100 + 0x20·p, the first offset of port `p` (30_encoding.md R111). -/
def portBase (p : Nat) : Nat := 0x100 + 0x20 * p

/-- ARG `k` of a port (R33). -/
def Port.arg (q : Port) (k : Fin 4) : Word :=
  if k = 0 then q.arg0 else if k = 1 then q.arg1 else if k = 2 then q.arg2 else q.arg3

/-- A port with ARG `k` written (R47). -/
def Port.setArg (k : Fin 4) (v : Word) (q : Port) : Port :=
  if k = 0 then { q with arg0 := v }
  else if k = 1 then { q with arg1 := v }
  else if k = 2 then { q with arg2 := v }
  else { q with arg3 := v }

/-- Read a port's element, 0 where there is no such port (R46). -/
def State.portRead (s : State) (p : Nat) (f : Port → Word) : Word :=
  match s.ports[p]? with
  | none => 0#32
  | some q => f q

/-- What a register reads (10_state.md R36 to R50). No read has a side effect (20_memory.md R79). CH_SRC, CH_DST and CH_LEN
have no register: the map of R35 gives them no offset, although R34 calls all state but three elements readable.
DESIGN CHOICE (log entry 24): the model follows R35's map and R46's reserved offsets, so no host can read the three. -/
def State.regRead (s : State) : Reg → Word
  | .id => Config.idValue
  | .caps => s.capsWord
  | .state => s.stateWord
  | .irqStatus => 0#30 ++ s.irqStatus
  | .irqEnable => 0#30 ++ s.irqEnable
  | .periodCount => s.periodCount
  | .generation => s.gen
  | .winPos => s.win.pos
  | .winChunk => s.win.chunk
  | .chRem => if s.params.hasRemainingCounter then s.ch.rem else 0#32
  | .winStart => s.win.start
  | .winEnd => s.win.fin
  | .winPeriod => s.win.period
  | .winSink => s.win.sink
  | .pendAddr => s.pendAddr
  | .winLen => s.win.len
  | .arg p k => s.portRead p fun q => q.arg k
  | .cmd _ => 0#32
  | .result p => s.portRead p fun q => q.result
  | .pstatus p => s.portRead p fun q => q.pstatus
  | .reserved => 0#32

/-- An access the register space admits: 32 bits wide at a 4-byte-aligned offset (20_memory.md R78). -/
def accessAdmitted (off : BitVec 12) (w : AccessWidth) : Bool := decide (w = .w32 ∧ off.toNat % 4 = 0)

/-- The register offset of a bus address, where the address is the block's (20_memory.md R80). -/
def busOffset (addr : Word) : Option (BitVec 12) :=
  if addr.extractLsb' 12 20 = Config.basePage then some (addr.extractLsb' 0 12) else none

/-- The byte that lane `i` of a register holds, at byte address BASE + offset + i (20_memory.md R77: little-endian). -/
def byteLane (v : Word) (i : Fin 4) : Byte := v.extractLsb' (8 * i.val) 8

end Sys2Proof.Machine
end

