-- ==== Sys2Proof/Machine/Tracker.lean ====
section
/-! DEFINITION. The Circular Buffer Tracker's micro-operations (40_tracker.md R130, R131, R136) and the swap
(44_vsync.md R242). They are no steps; START and COMPLETE use them. -/

namespace Sys2Proof.Machine

/-- `advance()` (40_tracker.md R130): the wrap, on `>=`. -/
def Window.advance (w : Window) : Window :=
  if w.fin.toNat ≤ w.pos.toNat then { w with pos := w.start } else w

/-- `nextChunk()` (40_tracker.md R131). -/
def Window.nextChunk (w : Window) : Window :=
  { w with chunk := word (min w.period.toNat (w.fin.toNat - w.pos.toNat)) }

/-- `trackNext()` (40_tracker.md R136): commit the finished chunk, wrap, and compute the next chunk. -/
def Window.trackNext (w : Window) : Window :=
  (Window.advance { w with pos := word (w.pos.toNat + w.chunk.toNat) }).nextChunk

/-- `applySwap()` on the window (44_vsync.md R242). -/
def Window.swapTo (a : Word) (w : Window) : Window :=
  { w with start := a, fin := word (a.toNat + w.len.toNat), pos := a }

/-- `applySwap()` (44_vsync.md R242). -/
def State.applySwap (s : State) : State :=
  { s with win := s.win.swapTo s.pendAddr, pendValid := false }

/-- Whether a swap is latched that START or COMPLETE applies (41_engine.md R160, 42_completion.md R190). -/
def State.swapLatched (s : State) : Bool := decide (s.mode = .frame) && s.pendValid

end Sys2Proof.Machine
end

