-- ==== Sys2Proof/Machine/Completion.lean ====
section
/-! DEFINITION. The Completion Handler: COMPLETE, NOTIFY and STRAY_DONE (42_completion.md R190, R195, R200). A turn
offered to an agent whose step is not enabled passes (log entry 3). -/

namespace Sys2Proof.Machine

/-- COMPLETE's window work (42_completion.md R190): commit and advance, then the latched swap. -/
def State.completeWindow (s : State) : State :=
  if s.swapLatched then
    let s1 := (s.setWin s.win.trackNext).applySwap
    s1.setWin s1.win.nextChunk
  else s.setWin s.win.trackNext

/-- COMPLETE's re-arm (42_completion.md R190): a refused one sets the engine Idle and raises FAULT(ZERO_LENGTH). -/
def State.rearm (s : State) : State :=
  match s.arm with
  | (t, .armOk) => t
  | (t, .armZero) => (t.setEngine .idle).raiseZeroLength

/-- COMPLETE where it is enabled (42_completion.md R190). The acknowledge comes before the check of ENGINE, and the check
before the advance (90_conflicts.md C1). -/
def State.complete (s : State) : State :=
  let s1 := s.setCh { s.ch with done := false }
  if s.engine = .running then s1.completeWindow.rearm.setNotify (NotifyKind.ofMode s.mode) else s1

/-- A waiting port whose target is reached ends with RESULT 1 and CODE OK (42_completion.md R195). -/
def Port.release (g : Word) (q : Port) : Port :=
  if q.busy && reached g q.waitTarget then { q with result := 1#32, code := .ok, busy := false } else q

/-- NOTIFY's frame part (42_completion.md R195): GEN counts, and every wait whose target is reached is released. -/
def State.frameDone (s : State) : State :=
  { s with gen := s.gen + 1#32, ports := s.ports.map (Port.release (s.gen + 1#32)) }

/-- NOTIFY where it is enabled (42_completion.md R195). -/
def State.notify (s : State) : State :=
  let s1 := { s with notifyPending := .none, periodCount := s.periodCount + 1#32, irqStatus := setPE s.irqStatus }
  if s.notifyPending = .frame then s1.frameDone else s1

/-- COMPLETE (42_completion.md R190). -/
def execComplete (s : State) : Answer := .next (if s.completeEnabled then s.complete else s)

/-- NOTIFY (42_completion.md R195). -/
def execNotify (s : State) : Answer := .next (if s.notifyEnabled then s.notify else s)

/-- STRAY_DONE (42_completion.md R200). -/
def execStrayDone (s : State) : Answer :=
  .next (if s.strayDoneEnabled then s.setCh { s.ch with done := true } else s)

end Sys2Proof.Machine
end

