-- ==== Sys2Proof/Machine/Engine.lean ====
section
/-! DEFINITION. The Transfer Engine: OPEN, CLOSE, START, STOP (41_engine.md R155, R158, R160, R165) and the channel's
BEAT (R170). -/

namespace Sys2Proof.Machine

/-- The five checks of OPEN (41_engine.md R155); the sum is exact, with no wrap. -/
def openRejected (m : Mode) (q : Port) (s : State) : Bool :=
  decide (s.engine = .running) || decide (q.arg2 = 0#32) || decide (q.arg1.toNat < q.arg2.toNat)
    || decide (maxAddr < q.arg0.toNat + q.arg1.toNat) || (decide (m = .frame) && decide (q.arg2 ≠ q.arg1))

/-- The window an accepted OPEN leaves (R155). -/
def Window.opened (q : Port) : Window :=
  { start := q.arg0, fin := word (q.arg0.toNat + q.arg1.toNat), len := q.arg1, period := q.arg2, sink := q.arg3,
    pos := q.arg0, chunk := 0#32 }

/-- OPEN(p, m) (41_engine.md R155), on port `p` whose registers are `q`. -/
def openRule (p : Nat) (m : Mode) (q : Port) (s : State) : State :=
  if openRejected m q s then s.finish p .invalidConfig 0#32
  else
    State.finish p .ok 0#32
      { s with mode := m, win := Window.opened q, pendValid := false, session := .opened }

/-- CLOSE(p) (41_engine.md R158). -/
def closeRule (p : Nat) (_q : Port) (s : State) : State :=
  if s.engine = .running then s.finish p .invalidConfig 0#32
  else State.finish p .ok 0#32 { s with session := .closed, pendValid := false }

/-- START's window work before the arm (41_engine.md R160): the latched swap, the reset of the position, the tracker. -/
def State.startWindow (s : State) : State :=
  let s1 := if s.swapLatched then s.applySwap else s
  s1.setWin (Window.advance { s1.win with pos := s1.win.start }).nextChunk

/-- START(p) (41_engine.md R160). -/
def startRule (p : Nat) (_q : Port) (s : State) : State :=
  if s.session = .closed then s.finish p .invalidConfig 0#32
  else if s.engine = .running then s.finish p .invalidConfig 0#32
  else
    match s.startWindow.arm with
    | (t, .armZero) => t.finish p .zeroLength 0#32
    | (t, .armOk) => (t.setEngine .running).finish p .ok 0#32

/-- What STOP's draw ABORT does to the channel (41_engine.md R165). -/
def Channel.aborted (c : Channel) : Channel := { c with active := false, rem := 0#32 }

/-- STOP's effect on the channel (41_engine.md R165): on an active channel, a draw between ABORT and DRAIN. -/
def State.stopChannel (s : State) : State :=
  if s.ch.active then
    { s with ch := if Config.stopDrains s.draws then s.ch else s.ch.aborted, draws := s.draws + 1 }
  else s

/-- STOP(p) (41_engine.md R165). -/
def stopRule (p : Nat) (_q : Port) (s : State) : State :=
  (s.setEngine .idle).stopChannel.finish p .ok 0#32

/-- The channel moves the byte at address `a` (41_engine.md R170). -/
def State.moveByte (a : Nat) (s : State) : State :=
  match s.params.direction with
  | .memToSink => (s.afterChanRead a).sinkWrite (s.chanRead a)
  | .sourceToMem => s.afterSource.memWrite a s.sourceNext

/-- The channel moves `n` bytes from address `a` on, in ascending order (41_engine.md R170, 20_memory.md R77). -/
def State.moveBytes : Nat → Nat → State → State
  | 0, _, s => s
  | n + 1, a, s => State.moveBytes n (a + 1) (s.moveByte a)

/-- The address of the next byte to move: CH_SRC + (CH_LEN - CH_REM) (41_engine.md R170). -/
def Channel.next (c : Channel) : Nat := c.src.toNat + (c.len.toNat - c.rem.toNat)

/-- The channel after `k` of its bytes have moved (41_engine.md R170): the last byte ends the chunk and raises CH_DONE. -/
def Channel.afterBeat (k : Nat) (c : Channel) : Channel :=
  if c.rem.toNat - k = 0 then { c with rem := 0#32, active := false, done := true }
  else { c with rem := word (c.rem.toNat - k) }

/-- BEAT of `k` bytes where it is enabled (41_engine.md R170). The channel counts after its bytes have moved
(20_memory.md R88). -/
def State.beat (k : Nat) (s : State) : State :=
  (s.moveBytes k s.ch.next).setCh (s.ch.afterBeat k)

/-- OPEN (41_engine.md R155). -/
def execOpen (p : Nat) (m : Mode) (s : State) : Answer := .next (s.onPort p (openRule p m))

/-- CLOSE (41_engine.md R158). -/
def execClose (p : Nat) (s : State) : Answer := .next (s.onPort p (closeRule p))

/-- START (41_engine.md R160). -/
def execStart (p : Nat) (s : State) : Answer := .next (s.onPort p (startRule p))

/-- STOP (41_engine.md R165). -/
def execStop (p : Nat) (s : State) : Answer := .next (s.onPort p (stopRule p))

/-- BEAT (41_engine.md R170). A turn offered to a channel with no such beat enabled passes (log entry 3). A beat that
would touch an address which names no memory is stuck (20_memory.md R71, 93_implementation_defined.md S6). -/
def execBeat (k : Nat) (s : State) : Answer :=
  if s.beatEnabled k then
    match s.params.firstAbsent k s.ch.next with
    | some a => .fault (.noMemory a)
    | none => .next (s.beat k)
  else .next s

end Sys2Proof.Machine
end

