-- ==== Sys2Proof/Machine/Position.lean ====
section
/-! DEFINITION. The Position Reporter: GETOFF (43_position.md R220). -/

namespace Sys2Proof.Machine

/-- The bytes of the armed chunk already moved, as GETOFF counts them (43_position.md R220). -/
def State.inflight (s : State) : Nat :=
  if s.engine = .running ∧ s.params.hasRemainingCounter = true then
    s.win.chunk.toNat - min s.ch.rem.toNat s.win.chunk.toNat
  else 0

/-- The offset before the clamp: committed plus in-flight (43_position.md R220). -/
def State.rawOffset (s : State) : Nat := (s.win.pos.toNat - s.win.start.toNat) + s.inflight

/-- The offset GETOFF reports (43_position.md R220): WIN_LEN or more is reported as 0. -/
def State.offset (s : State) : Nat := if s.win.len.toNat ≤ s.rawOffset then 0 else s.rawOffset

/-- GETOFF(p) (43_position.md R220). -/
def getoffRule (p : Nat) (_q : Port) (s : State) : State :=
  if s.session = .closed then s.finish p .invalidConfig 0#32
  else s.finish p .ok (word s.offset)

/-- GETOFF (43_position.md R220). -/
def execGetoff (p : Nat) (s : State) : Answer := .next (s.onPort p (getoffRule p))

end Sys2Proof.Machine
end

