-- ==== Sys2Proof/Machine/Vsync.lean ====
section
/-! DEFINITION. The Vsync/Swap variant: REQADDR, WAITGEN and WAIT_TIMEOUT (44_vsync.md R245, R250, R255). -/

namespace Sys2Proof.Machine

/-- The generation token (44_vsync.md R245): one frame later while a FRAME notification is pending. -/
def State.token (s : State) : Word := s.gen + (if s.notifyPending = .frame then 2#32 else 1#32)

/-- REQADDR(p) (44_vsync.md R245). -/
def reqaddrRule (p : Nat) (q : Port) (s : State) : State :=
  if s.session = .closed then s.finish p .invalidConfig 0#32
  else if s.mode = .period then s.finish p .illegalCommand 0#32
  else if maxAddr < q.arg0.toNat + s.win.len.toNat then s.finish p .invalidConfig 0#32
  else State.finish p .ok s.token { s with pendAddr := q.arg0, pendValid := true }

/-- What a WAITGEN that blocks leaves in its port (44_vsync.md R250): CODE and RESULT keep their values. -/
def Port.block (q : Port) : Port := { q with waitTarget := q.arg0, waitTmo := q.arg1, busy := true }

/-- WAITGEN(p) (44_vsync.md R250). -/
def waitgenRule (p : Nat) (q : Port) (s : State) : State :=
  if s.session = .closed then s.finish p .invalidConfig 0#32
  else if s.mode = .period then s.finish p .illegalCommand 0#32
  else if reached s.gen q.arg0 then s.finish p .ok 1#32
  else if q.arg1 = 0#32 then s.finish p .ok 0#32
  else s.updPort p Port.block

/-- REQADDR (44_vsync.md R245). -/
def execReqaddr (p : Nat) (s : State) : Answer := .next (s.onPort p (reqaddrRule p))

/-- WAITGEN (44_vsync.md R250). -/
def execWaitgen (p : Nat) (s : State) : Answer := .next (s.onPort p (waitgenRule p))

/-- WAIT_TIMEOUT (44_vsync.md R255): RESULT 0, CODE OK, BUSY 0. A turn offered to a port that waits for nothing passes
(log entry 3). -/
def execWaitTimeout (p : Nat) (s : State) : Answer :=
  .next (if s.waitTimeoutEnabled p then s.finish p .ok 0#32 else s)

end Sys2Proof.Machine
end

