-- ==== Sys2Proof/Machine/HostPort.lean ====
section
/-! DEFINITION. The host interface: command issue (45_host_interface.md R275) and the two register accesses (R271,
R272). -/

namespace Sys2Proof.Machine

/-- The rule of a decoded command on port `p` (45_host_interface.md R275). -/
def runCmd (p : Nat) : Cmd → Port → State → State
  | .openSession m => openRule p m
  | .close => closeRule p
  | .start => startRule p
  | .stop => stopRule p
  | .getoff => getoffRule p
  | .reqaddr => reqaddrRule p
  | .waitgen => waitgenRule p

/-- `issue(p, w)` past the BUSY check (45_host_interface.md R275): an illegal word ends with ILLEGAL_COMMAND. -/
def issueRule (p : Nat) (w : Word) (q : Port) (s : State) : State :=
  match decodeCmd w with
  | .error _ => s.finish p .illegalCommand 0#32
  | .ok c => runCmd p c q s

/-- `issue(p, w)` (45_host_interface.md R275). -/
def State.issue (p : Nat) (w : Word) (s : State) : State := s.onPort p (issueRule p w)

/-- What a host write of `v` to a register does (45_host_interface.md R272); read-only and reserved ones ignore it. -/
def State.regWrite (r : Reg) (v : Word) (s : State) : State :=
  match r with
  | .irqStatus => { s with irqStatus := clearOnes s.irqStatus v }
  | .irqEnable => { s with irqEnable := v.extractLsb' 0 2 }
  | .arg p k => s.updPort p (Port.setArg k v)
  | .cmd p => s.issue p v
  | .id => s
  | .caps => s
  | .state => s
  | .periodCount => s
  | .generation => s
  | .winPos => s
  | .winChunk => s
  | .chRem => s
  | .winStart => s
  | .winEnd => s
  | .winPeriod => s
  | .winSink => s
  | .pendAddr => s
  | .winLen => s
  | .result _ => s
  | .pstatus _ => s
  | .reserved => s

/-- MMIO_READ (45_host_interface.md R271): the value goes to the bus master, and the block is unchanged. -/
def execMmioRead (off : BitVec 12) (w : AccessWidth) (s : State) : Answer :=
  if accessAdmitted off w then .next { s with busData := s.regRead (regOf off) } else raiseBusError off

/-- MMIO_WRITE (45_host_interface.md R272). -/
def execMmioWrite (off : BitVec 12) (w : AccessWidth) (v : Word) (s : State) : Answer :=
  if accessAdmitted off w then .next (s.regWrite (regOf off) v) else raiseBusError off

end Sys2Proof.Machine
end

