-- ==== Sys2Proof/Machine/ResetEvent.lean ====
section
/-! DEFINITION. RESET (70_reset_and_hazards.md R340). -/

namespace Sys2Proof.Machine

/-- Every state element of the block takes its reset value (10_state.md R60); the instance's parameters and number of
ports, system memory, the two streams, the host masters' programs and the model's own schedule and draw counters stay. -/
def State.blockReset (s : State) : State :=
  { State.reset with
    params := s.params
    ports := s.ports.map fun _ => Port.reset
    mem := s.mem
    sink := s.sink
    sourceTaken := s.sourceTaken
    busData := s.busData
    hosts := s.hosts
    feed := s.feed
    draws := s.draws }

/-- RESET (70_reset_and_hazards.md R340): enabled at any point. -/
def execReset (s : State) : Answer := .next s.blockReset

end Sys2Proof.Machine
end

