-- ==== Sys2Proof/Machine/Dispatch.lean ====
section
/-! DEFINITION. One arm per instruction, each a direct call of its meaning. -/

namespace Sys2Proof.Machine

def exec (i : Instr) (s : State) : Host.Outcome State Fault Refusal :=
  match i with
  | .openCmd p m => Sys2Proof.Machine.execOpen p m s
  | .close p => Sys2Proof.Machine.execClose p s
  | .start p => Sys2Proof.Machine.execStart p s
  | .stop p => Sys2Proof.Machine.execStop p s
  | .getoff p => Sys2Proof.Machine.execGetoff p s
  | .reqaddr p => Sys2Proof.Machine.execReqaddr p s
  | .waitgen p => Sys2Proof.Machine.execWaitgen p s
  | .beat k => Sys2Proof.Machine.execBeat k s
  | .complete => Sys2Proof.Machine.execComplete s
  | .notify => Sys2Proof.Machine.execNotify s
  | .waitTimeout p => Sys2Proof.Machine.execWaitTimeout p s
  | .strayDone => Sys2Proof.Machine.execStrayDone s
  | .reset => Sys2Proof.Machine.execReset s
  | .mmioRead off w => Sys2Proof.Machine.execMmioRead off w s
  | .mmioWrite off w v => Sys2Proof.Machine.execMmioWrite off w v s

end Sys2Proof.Machine
end

