-- ==== Sys2Proof/Machine/Environment.lean ====
section
/-! DEFINITION. A host master's accesses to system memory (20_memory.md R87). They are no rows of the opcode table: the
block does not take part in them, but what its channel later moves depends on them. DESIGN CHOICE (log entry 26): an item
of this kind is a memory access whatever its address, in the register window [BASE, BASE + 0x1000) too; the spec does not
say how the window and the memory addresses overlap (20_memory.md R70). -/

namespace Sys2Proof.Machine

/-- Whether `a` is a byte of the armed chunk that the channel has not yet moved (20_memory.md R87). -/
def State.unmoved (s : State) (a : Nat) : Bool :=
  s.ch.active && decide (s.ch.next ≤ a ∧ a < s.ch.src.toNat + s.ch.len.toNat)

/-- A host master stores a byte. On an armed byte that is still to be moved to the sink it is a race (R87). At an address
of the register window too it is a store to memory, and no 8-bit register access (DESIGN CHOICE, log entry 26). -/
def hostStore (a : Word) (b : Byte) (s : State) : Answer :=
  if s.params.admits a.toNat then
    if s.unmoved a.toNat && decide (s.params.direction = .memToSink) then
      .next { s.memWrite a.toNat b with raced := insertAddr s.raced a.toNat }
    else .next (s.memWrite a.toNat b)
  else .fault (.noMemory a.toNat)

/-- The byte the source stream will put at an unmoved address `a` of the armed chunk (20_memory.md R77, R87). -/
def State.comingByte (s : State) (a : Nat) : Byte := Config.sourceByte (s.sourceTaken + (a - s.ch.next))

/-- A host master loads a byte. Of a byte that the channel is still to write, it is a draw of the old value or the new
one (R87). At an address of the register window too it is a load from memory (DESIGN CHOICE, log entry 26). -/
def hostLoad (a : Word) (s : State) : Answer :=
  if s.params.admits a.toNat then
    if s.unmoved a.toNat && decide (s.params.direction = .sourceToMem) then
      .next
        { s with
          busData := (if Config.hostReadsNew s.draws then s.comingByte a.toNat else s.memByte a.toNat).setWidth 32
          draws := s.draws + 1 }
    else .next { s with busData := (s.memByte a.toNat).setWidth 32 }
  else .fault (.noMemory a.toNat)

end Sys2Proof.Machine
end

