-- ==== Sys2Proof/Machine/Fetch.lean ====
section
/-! DEFINITION. Taking the next item of the feed: which step of which agent comes next (00_scope.md R7; log entry 1). -/

namespace Sys2Proof.Machine

/-- What the next step is: an instruction to run on a state, or an answer that needs no instruction. -/
inductive Fetched where
  | instr (i : Instr) (s : State)
  | answer (o : Answer)

/-- The one register access that an operation of a host program performs at its turn (30_encoding.md R110, R112). -/
def HostOp.instr : HostOp → Instr
  | .read off => .mmioRead off .w32
  | .write off v => .mmioWrite off .w32 v
  | .waitdone p => .mmioRead (BitVec.ofNat 12 (portBase p + 0x18)) .w32

/-- Whether an operation has to be performed again after its access in state `s`: WAITDONE, while bit 31 of the PSTATUS
that it reads is 1 (30_encoding.md R112). -/
def HostOp.again (s : State) : HostOp → Bool
  | .read _ => false
  | .write _ _ => false
  | .waitdone p => (s.regRead (regOf (BitVec.ofNat 12 (portBase p + 0x18)))).getLsbD 31

/-- What host master `m` has left to do after its operation `op`, which `rest` follows. -/
def State.afterHostOp (m : Nat) (op : HostOp) (rest : List HostOp) (s : State) : State :=
  { s with hosts := if op.again s then s.hosts else s.hosts.set m rest }

/-- Host master `m`'s turn: the next register access of its program (20_memory.md R86: one at a time, in order). The turn of
a master that is not there, or whose program has ended, passes (log entry 25). -/
def hostTurn (m : Nat) (s : State) : Fetched :=
  match s.hosts[m]? with
  | some (op :: rest) => .instr op.instr (s.afterHostOp m op rest)
  | some [] => .answer (.next s)
  | none => .answer (.next s)

/-- An entry that decodes to no instruction: an illegal command word is still issued on its port and ends with
ILLEGAL_COMMAND (30_encoding.md R104, 45_host_interface.md R275), a host memory access is performed, a host master's turn
runs the next register access of its program, and a record that stands for no step of the spec is refused. -/
def noInstr (e : DecodeError) (s : State) : Entry → Fetched
  | .command p w => .answer (if p < Config.maxPorts then .next (s.issue p w) else .refused (.undecodable e))
  | .event _ => .answer (.refused (.undecodable e))
  | .hostStore a b => .answer (hostStore a b s)
  | .hostLoad a => .answer (hostLoad a s)
  | .hostTurn m => hostTurn m s

/-- The next item of the feed, taken off it. With an empty feed nothing happens. -/
def fetch (s : State) : Fetched :=
  match s.feed with
  | [] => .answer (.next s)
  | e :: rest =>
    match decode e with
    | .ok i => .instr i { s with feed := rest }
    | .error err => noInstr err { s with feed := rest } e

/-- `s` with one more entry at the head of its feed. -/
def State.withEntry (e : Entry) (s : State) : State := { s with feed := e :: s.feed }

end Sys2Proof.Machine
end

