-- ==== Sys2Proof/Machine/Step.lean ====
section
/-! DEFINITION. One step of the machine: the next item of the feed (00_scope.md R7, R8: each step is atomic). -/

namespace Sys2Proof.Machine

/-- One atomic step. -/
def step (s : State) : Host.Outcome State Fault Refusal :=
  match fetch s with
  | .instr i t => exec i t
  | .answer o => o

/-- `s` with the instruction of an opcode-table row as the next item of its feed. -/
def State.withFetchWord (s : State) (nbits w : Nat) : State := s.withEntry (entryOfTable nbits w)

end Sys2Proof.Machine
end

