-- ==== Sys2Proof/Machine/Asm.lean ====
section
/-! DEFINITION. The host-side assembly (30_encoding.md R110 to R112): a statement, the operations it expands to, and a line
of its text. This is how a text becomes the program of a host master in State.hosts. -/

namespace Sys2Proof.Machine

/-- The statements of R110 and the pseudo-instructions of R112. `openS p .frame` is OPEN.F. -/
inductive Stmt where
  | openS (p : Nat) (m : Mode) (a len per sinkAddr : Word)
  | close (p : Nat)
  | start (p : Nat)
  | stop (p : Nat)
  | getoff (p : Nat)
  | reqaddr (p : Nat) (addr : Word)
  | waitgen (p : Nat) (target timeoutMs : Word)
  | wr (off : BitVec 12) (v : Word)
  | rd (off : BitVec 12)
  | resume (p : Nat)
  | suspend (p : Nat)
  | result (p : Nat)
  | pstatus (p : Nat)
  | waitdone (p : Nat)
  | ackpe
deriving DecidableEq, Repr

/-- `WR off, value`: one 32-bit register write (R110). -/
def asmWr (off : Nat) (v : Word) : HostOp := .write (BitVec.ofNat 12 off) v

/-- `RD off`: one 32-bit register read (R110). -/
def asmRd (off : Nat) : HostOp := .read (BitVec.ofNat 12 off)

/-- One `WR` per operand, from ARG `k` on, then the `WR` of the command word to CMD (R111). -/
def asmCommand (p : Nat) (args : List Word) (w : Word) : List HostOp :=
  args.mapIdx (fun k v => asmWr (portBase p + 4 * k) v) ++ [asmWr (portBase p + 0x10) w]

/-- The operations of a statement, in order (R111, R112). WAITDONE is the one operation that its host master repeats, until
the PSTATUS it reads has bit 31 = 0 (HostOp.again). -/
def Stmt.expand : Stmt → List HostOp
  | .openS p m a len per k => asmCommand p [a, len, per, k] (cwWord (bitOfMode m) 0x01#8)
  | .close p => asmCommand p [] 0x00000002#32
  | .start p => asmCommand p [] 0x00000003#32
  | .stop p => asmCommand p [] 0x00000004#32
  | .getoff p => asmCommand p [] 0x00000005#32
  | .reqaddr p addr => asmCommand p [addr] 0x00000006#32
  | .waitgen p target timeoutMs => asmCommand p [target, timeoutMs] 0x00000007#32
  | .wr off v => [.write off v]
  | .rd off => [.read off]
  | .resume p => asmCommand p [] 0x00000003#32
  | .suspend p => asmCommand p [] 0x00000004#32
  | .result p => [asmRd (portBase p + 0x14)]
  | .pstatus p => [asmRd (portBase p + 0x18)]
  | .waitdone p => [.waitdone p]
  | .ackpe => [asmWr 0x00C 0x00000001#32]

/-- The host program that statements assemble to. -/
def asmProgram (prog : List Stmt) : List HostOp := prog.flatMap Stmt.expand

/-- `s` with one more host master, which runs the program of these statements. -/
def State.withProgram (prog : List Stmt) (s : State) : State := { s with hosts := s.hosts ++ [asmProgram prog] }

/-- The text before a `;` (R110: `;` starts a comment). -/
def asmUncomment (cs : List Char) : List Char := cs.takeWhile fun c => c != ';'

/-- Without the blanks at both ends. -/
def asmTrim (cs : List Char) : List Char :=
  let front := cs.dropWhile fun c => c == ' ' || c == '\t'
  (front.reverse.dropWhile fun c => c == ' ' || c == '\t').reverse

/-- The first word of a line. -/
def asmHead (cs : List Char) : String := String.ofList (cs.takeWhile fun c => !(c == ' ' || c == '\t'))

/-- The operands after the first word, between commas, with their blanks cut. -/
def asmOperands (cs : List Char) : List (List Char) :=
  let rest := asmTrim (cs.dropWhile fun c => !(c == ' ' || c == '\t'))
  if rest = [] then [] else (rest.splitOn ',').map asmTrim

/-- The value of one digit in a base. -/
def asmDigit (base : Nat) (c : Char) : Option Nat :=
  let v :=
    if '0'.toNat ≤ c.toNat ∧ c.toNat ≤ '9'.toNat then c.toNat - '0'.toNat
    else if 'a'.toNat ≤ c.toNat ∧ c.toNat ≤ 'f'.toNat then c.toNat - 'a'.toNat + 10
    else if 'A'.toNat ≤ c.toNat ∧ c.toNat ≤ 'F'.toNat then c.toNat - 'A'.toNat + 10
    else base
  if v < base then some v else none

/-- Digits in a base, onto what is already read. -/
def asmDigits (base : Nat) : Nat → List Char → Option Nat
  | n, [] => some n
  | n, c :: cs =>
    match asmDigit base c with
    | some d => asmDigits base (n * base + d) cs
    | none => none

/-- A number, decimal or hexadecimal with a 0x prefix (R110). -/
def asmNumber : List Char → Option Nat
  | [] => none
  | '0' :: 'x' :: cs => if cs = [] then none else asmDigits 16 0 cs
  | cs => asmDigits 10 0 cs

/-- A port operand, 0 ≤ p < N_PORTS (R110). -/
def asmPort (nPorts n : Nat) : Option Nat := if n < nPorts then some n else none

/-- A 32-bit operand. -/
def asmWord (n : Nat) : Option Word := if n ≤ maxAddr then some (word n) else none

/-- A register offset. -/
def asmOffset (n : Nat) : Option (BitVec 12) := if n < 0x1000 then some (BitVec.ofNat 12 n) else none

/-- All the operands of a statement as numbers. -/
def asmNumbers : List (List Char) → Option (List Nat)
  | [] => some []
  | a :: rest =>
    match asmNumber a, asmNumbers rest with
    | some n, some ns => some (n :: ns)
    | _, _ => none

/-- A statement whose one operand is a port. -/
def asmPortStmt (nPorts : Nat) (f : Nat → Stmt) : List Nat → Option Stmt
  | [p] => (asmPort nPorts p).map f
  | _ => none

/-- OPEN and OPEN.F. -/
def asmOpen (nPorts : Nat) (m : Mode) : List Nat → Option Stmt
  | [p, a, l, per, k] =>
    match asmPort nPorts p, asmWord a, asmWord l, asmWord per, asmWord k with
    | some p, some a, some l, some per, some k => some (.openS p m a l per k)
    | _, _, _, _, _ => none
  | _ => none

/-- REQADDR. -/
def asmReqaddr (nPorts : Nat) : List Nat → Option Stmt
  | [p, a] =>
    match asmPort nPorts p, asmWord a with
    | some p, some a => some (.reqaddr p a)
    | _, _ => none
  | _ => none

/-- WAITGEN. -/
def asmWaitgen (nPorts : Nat) : List Nat → Option Stmt
  | [p, t, ms] =>
    match asmPort nPorts p, asmWord t, asmWord ms with
    | some p, some t, some ms => some (.waitgen p t ms)
    | _, _, _ => none
  | _ => none

/-- WR. -/
def asmWrStmt : List Nat → Option Stmt
  | [o, v] =>
    match asmOffset o, asmWord v with
    | some o, some v => some (.wr o v)
    | _, _ => none
  | _ => none

/-- RD. -/
def asmRdStmt : List Nat → Option Stmt
  | [o] => (asmOffset o).map .rd
  | _ => none

/-- A statement from its mnemonic and its operands (R110, R112). -/
def asmStmt (nPorts : Nat) (m : String) (ns : List Nat) : Option Stmt :=
  if m = "OPEN" then asmOpen nPorts .period ns
  else if m = "OPEN.F" then asmOpen nPorts .frame ns
  else if m = "CLOSE" then asmPortStmt nPorts .close ns
  else if m = "START" then asmPortStmt nPorts .start ns
  else if m = "STOP" then asmPortStmt nPorts .stop ns
  else if m = "GETOFF" then asmPortStmt nPorts .getoff ns
  else if m = "REQADDR" then asmReqaddr nPorts ns
  else if m = "WAITGEN" then asmWaitgen nPorts ns
  else if m = "WR" then asmWrStmt ns
  else if m = "RD" then asmRdStmt ns
  else if m = "RESUME" then asmPortStmt nPorts .resume ns
  else if m = "SUSPEND" then asmPortStmt nPorts .suspend ns
  else if m = "RESULT" then asmPortStmt nPorts .result ns
  else if m = "PSTATUS" then asmPortStmt nPorts .pstatus ns
  else if m = "WAITDONE" then asmPortStmt nPorts .waitdone ns
  else if m = "ACKPE" then (if ns = [] then some .ackpe else none)
  else none

/-- One line of assembly (R110): nothing, one statement, or an error (none). -/
def asmLine (nPorts : Nat) (cs : List Char) : Option (List Stmt) :=
  let line := asmTrim (asmUncomment cs)
  if line = [] then some []
  else
    match asmNumbers (asmOperands line) with
    | some ns => (asmStmt nPorts (asmHead line) ns).map fun st => [st]
    | none => none

/-- A whole text, one statement per line (R110): its statements, or an error (none). -/
def asmText (nPorts : Nat) : List (List Char) → Option (List Stmt)
  | [] => some []
  | l :: rest =>
    match asmLine nPorts l, asmText nPorts rest with
    | some a, some b => some (a ++ b)
    | _, _ => none

end Sys2Proof.Machine
end

