-- ==== Sys2Proof/Safety.lean ====
section
/-! DEFINITION. What claims are stated in: the invariants of 10_state.md R52 to R58 and 40_tracker.md R132, what counts
as a safe state (60_exceptions.md R306), the fair steps and the fair runs (70_reset_and_hazards.md R362), quiescence, the
end of a run (R363) and its final states. -/

namespace Sys2Proof

/-- The steps of host masters among the instructions: the commands and the register accesses (30_encoding.md R108,
45_host_interface.md R270). -/
def Instr.byHost : Instr → Bool
  | .openCmd _ _ => true
  | .close _ => true
  | .start _ => true
  | .stop _ => true
  | .getoff _ => true
  | .reqaddr _ => true
  | .waitgen _ => true
  | .beat _ => false
  | .complete => false
  | .notify => false
  | .waitTimeout _ => false
  | .strayDone => false
  | .reset => false
  | .mmioRead _ _ => true
  | .mmioWrite _ _ _ => true

/-- An item of the schedule that is itself an access of a host master: a command word, a register access, or an access to
system memory. A host's turn is none: what it does stands in that host's program. -/
def Entry.byHost : Entry → Bool
  | .command _ _ => true
  | .event r =>
    match decodeEvent r with
    | .ok i => i.byHost
    | .error _ => false
  | .hostStore _ _ => true
  | .hostLoad _ => true
  | .hostTurn _ => false

end Sys2Proof

namespace Sys2Proof.Machine

/-- R52. A closed session has an Idle engine; it also has no latched swap (R30: OPEN and CLOSE clear PEND_VALID). -/
abbrev State.SessionInv (s : State) : Prop :=
  s.session = .closed → s.engine = .idle ∧ s.pendValid = false

/-- R53. The configuration of an open session. -/
abbrev State.WindowInv (s : State) : Prop :=
  s.session = .opened →
    0 < s.win.period.toNat ∧ s.win.period.toNat ≤ s.win.len.toNat
      ∧ s.win.fin.toNat = s.win.start.toNat + s.win.len.toNat
      ∧ s.win.start.toNat + s.win.len.toNat ≤ maxAddr
      ∧ (s.mode = .frame → s.win.period = s.win.len)
      ∧ (s.pendValid = true → s.mode = .frame ∧ s.pendAddr.toNat + s.win.len.toNat ≤ maxAddr)

/-- R54 and R132. The position lies in the buffer, a whole number of periods from its start. -/
abbrev State.PositionInv (s : State) : Prop :=
  s.session = .opened →
    s.win.start.toNat ≤ s.win.pos.toNat ∧ s.win.pos.toNat < s.win.fin.toNat
      ∧ (s.win.pos.toNat - s.win.start.toNat) % s.win.period.toNat = 0

/-- R55. The chunk of a running engine. -/
abbrev State.ChunkInv (s : State) : Prop :=
  s.engine = .running → s.win.chunk.toNat = min s.win.period.toNat (s.win.fin.toNat - s.win.pos.toNat)

/-- R56. The channel of a running engine. -/
abbrev State.ArmedInv (s : State) : Prop :=
  s.engine = .running →
    s.ch.src = s.win.pos ∧ s.ch.dst = s.win.sink ∧ s.ch.len = s.win.chunk
      ∧ ((s.ch.active = true ∧ s.ch.done = false ∧ 1 ≤ s.ch.rem.toNat ∧ s.ch.rem.toNat ≤ s.ch.len.toNat)
        ∨ (s.ch.active = false ∧ s.ch.done = true ∧ s.ch.rem = 0#32))

/-- R57, and the address bound of every armed chunk (20_memory.md R72). -/
abbrev State.ChannelInv (s : State) : Prop :=
  s.ch.rem.toNat ≤ s.ch.len.toNat
    ∧ (s.ch.active = true → 1 ≤ s.ch.rem.toNat ∧ s.ch.src.toNat + s.ch.len.toNat ≤ maxAddr)

/-- R58. A waiting port's target is not reached. -/
abbrev State.WaitInv (s : State) : Prop :=
  ∀ q ∈ s.ports, q.busy = true → reached s.gen q.waitTarget = false

/-- R32 and 60_exceptions.md R306. The zero-length fault has not been raised. -/
abbrev State.NoFault (s : State) : Prop := s.faultZl = false ∧ s.irqStatus &&& 0b10#2 = 0#2

/-- The canonical form of memory and of the list of raced addresses, and the bounds of N_PORTS (00_scope.md R6). -/
abbrev State.FormInv (s : State) : Prop :=
  Memory.wf s.mem = true ∧ addrsRising 0 s.raced = true ∧ 1 ≤ s.ports.length ∧ s.ports.length ≤ Config.maxPorts

/-- The invariant of the machine: it holds at reset and every step keeps it. -/
structure State.Inv (s : State) : Prop where
  session  : s.SessionInv
  window   : s.WindowInv
  position : s.PositionInv
  chunk    : s.ChunkInv
  armed    : s.ArmedInv
  channel  : s.ChannelInv
  waits    : s.WaitInv
  noFault  : s.NoFault
  form     : s.FormInv

/-- Port `p` stands as `q` and can take a command: it exists and is not BUSY (45_host_interface.md R275). -/
abbrev State.Ready (s : State) (p : Nat) (q : Port) : Prop := s.ports[p]? = some q ∧ q.busy = false

/-- Every one of the `k` bytes from address `a` on names memory (20_memory.md R71). -/
abbrev Params.AdmitsRange (c : Params) (a k : Nat) : Prop := ∀ j, j < k → c.admits (a + j) = true

/-- A state in which no FAULT is recorded (60_exceptions.md R306: a claim takes FAULT_ZL = 0 as a premise). -/
abbrev State.Safe (s : State) : Prop := s.faultZl = false

/-- Some beat is enabled (41_engine.md R170). -/
def State.someBeatEnabled (s : State) : Bool := s.beatEnabled 1

/-- Some port waits, so its WAIT_TIMEOUT is enabled (44_vsync.md R255). -/
def State.someTimeoutEnabled (s : State) : Bool := s.ports.any fun q => q.busy

/-- Some weakly fair step is enabled (70_reset_and_hazards.md R362). -/
def State.fairEnabled (s : State) : Bool :=
  s.someBeatEnabled || s.completeEnabled || s.notifyEnabled || s.someTimeoutEnabled

/-- Quiescence (70_reset_and_hazards.md R363). -/
abbrev State.Quiescent (s : State) : Prop :=
  s.engine = .idle ∧ s.ch.active = false ∧ s.ch.done = false ∧ s.notifyPending = .none
    ∧ ∀ q ∈ s.ports, q.busy = false

/-- The host programs have ended (70_reset_and_hazards.md R363): no host master has an operation left, and none of the
items ahead is an access of a host (log entries 1 and 25: a program stands in `hosts`, or item by item in `feed`). -/
abbrev State.HostsEnded (s : State) : Prop := (∀ l ∈ s.hosts, l = []) ∧ ∀ e ∈ s.feed, e.byHost = false

/-- The end of a run (70_reset_and_hazards.md R363): the host programs have ended and the block is quiescent. -/
abbrev State.RunOver (s : State) : Prop := s.HostsEnded ∧ s.Quiescent

/-- A final state: the run is over, and no FAULT is recorded, for a state that records one is never final (60_exceptions.md
R306, 93_implementation_defined.md's treatment `fault`). -/
abbrev State.Final (s : State) : Prop := s.RunOver ∧ s.Safe

/-- The weakly fair steps (70_reset_and_hazards.md R362): those of the channel, the completion sequencer, the notify stage,
and each port's wait timer. STRAY_DONE, RESET and the hosts' steps are not among them. -/
inductive FairStep where
  | beat
  | complete
  | notify
  | waitTimeout (p : Nat)
deriving DecidableEq, Repr

/-- Whether the step is enabled (R362). BEAT is, while CH_ACTIVE = 1 and the next byte's address names memory: at one that
names none the channel is stuck and has no step (93_implementation_defined.md S6; log entry 11). -/
def FairStep.enabled : FairStep → State → Bool
  | .beat, s => s.someBeatEnabled && s.params.admits s.ch.next
  | .complete, s => s.completeEnabled
  | .notify, s => s.notifyEnabled
  | .waitTimeout p, s => s.waitTimeoutEnabled p

/-- Whether item `e` of the schedule, at state `s`, is the step and it is enabled, so that it is taken there. -/
def FairStep.taken : FairStep → Entry → State → Prop
  | .beat, e, s => ∃ k, decode e = .ok (.beat k) ∧ s.beatEnabled k = true
  | .complete, e, s => decode e = .ok .complete ∧ s.completeEnabled = true
  | .notify, e, s => decode e = .ok .notify ∧ s.notifyEnabled = true
  | .waitTimeout p, e, s => decode e = .ok (.waitTimeout p) ∧ s.waitTimeoutEnabled p = true

/-- `r` is the run, without end, of the schedule `σ` from `r 0`: item `n` is offered at state `r n` and leads to
`r (n + 1)`. A feed is a finite part of such a schedule (log entry 1). -/
def IsRun (σ : Nat → Entry) (r : Nat → State) : Prop := ∀ n, step ((r n).withEntry (σ n)) = .next (r (n + 1))

/-- The run `r` of the schedule `σ` is over at `n` (R363): its state is, and no later item is an access of a host. -/
abbrev RunEndsAt (σ : Nat → Entry) (r : Nat → State) (n : Nat) : Prop :=
  (r n).RunOver ∧ ∀ m, n ≤ m → (σ m).byHost = false

/-- Weak fairness (R362): each fair step that stays enabled from some point on is eventually taken. -/
def WeaklyFair (σ : Nat → Entry) (r : Nat → State) : Prop :=
  ∀ (f : FairStep) (n : Nat), (∀ m, n ≤ m → f.enabled (r m) = true) → ∃ m, n ≤ m ∧ f.taken (σ m) (r m)

end Sys2Proof.Machine

namespace Sys2Proof

/-- The command and port that an instruction issues, if any: a command of R102, or a 32-bit write of its word to CMD
(45_host_interface.md R272, R275). -/
def Instr.issues : Instr → Option (Nat × Cmd)
  | .openCmd p m => some (p, .openSession m)
  | .close p => some (p, .close)
  | .start p => some (p, .start)
  | .stop p => some (p, .stop)
  | .getoff p => some (p, .getoff)
  | .reqaddr p => some (p, .reqaddr)
  | .waitgen p => some (p, .waitgen)
  | .beat _ => none
  | .complete => none
  | .notify => none
  | .waitTimeout _ => none
  | .strayDone => none
  | .reset => none
  | .mmioRead _ _ => none
  | .mmioWrite off _ v =>
    match Machine.regOf off, decodeCmd v with
    | .cmd p, .ok c => some (p, c)
    | _, _ => none

/-- The port whose CMD register an instruction writes, whatever the word (45_host_interface.md R275). -/
def Instr.cmdPort : Instr → Option Nat
  | .openCmd p _ => some p
  | .close p => some p
  | .start p => some p
  | .stop p => some p
  | .getoff p => some p
  | .reqaddr p => some p
  | .waitgen p => some p
  | .beat _ => none
  | .complete => none
  | .notify => none
  | .waitTimeout _ => none
  | .strayDone => none
  | .reset => none
  | .mmioRead _ _ => none
  | .mmioWrite off _ _ =>
    match Machine.regOf off with
    | .cmd p => some p
    | _ => none

/-- An instruction that can start the engine, move the window or reset the block: OPEN, START, RESET. -/
def Instr.restarts (i : Instr) : Bool :=
  decide (i = .reset) ||
    match i.issues with
    | some (_, .openSession _) => true
    | some (_, .start) => true
    | _ => false

/-- A feed entry that decodes to an instruction which restarts. A host's turn is judged by its program. -/
def Entry.restarts (e : Entry) : Bool :=
  match decode e with
  | .ok i => i.restarts
  | .error _ => false

/-- Some host program still holds an operation which restarts. -/
def Machine.State.hostsRestart (s : Machine.State) : Bool := s.hosts.any fun l => l.any fun op => op.instr.restarts

end Sys2Proof
end

