-- ==== Sys2Proof/Certificates/Slice0/Obligations.lean ====
section
/-! DEFINITION. The statements for the provers, one def per obligation, from the numbered rules of spec/. In a statement
about a command, `s.Ready p q` says that port `p` exists, stands as `q` and is not BUSY; `s.finish p c r` is the rule R276
operation that `PortFinishAndFault` states. Where a next state holds a field of the model's own (`raced`, `draws`: log
entries 5 and 6) the statement leaves that field free. -/

open Sys2Proof Sys2Proof.Machine

/-! ### Encoding and the step -/

/-- 30_encoding.md R100 to R102 and R108; the record layout of events is the model's choice (log entry 2). -/
def Obligations.DecodeOfEncodeIsIdentity : Prop :=
  ∀ i : Instr, i.wellFormed = true → decode (encode i) = .ok i

/-- No two entries stand for one instruction: every entry that decodes is the encoding of what it decodes to, which is
well-formed. The record layout of events is the model's choice (log entry 2). -/
def Obligations.DecodedEntryIsItsEncoding : Prop :=
  ∀ (e : Entry) (i : Instr), decode e = .ok i → encode i = e ∧ i.wellFormed = true

/-- 30_encoding.md R101: M selects OPEN's mode and is 0 in every other legal word. -/
def Obligations.ModeBitSelectsOpenMode : Prop :=
  ∀ w : Word,
    (cwRsvd w = 0#23 → cwOp w = 0x01#8 → w.getLsbD 8 = false → decodeCmd w = .ok (.openSession .period))
    ∧ (cwRsvd w = 0#23 → cwOp w = 0x01#8 → w.getLsbD 8 = true → decodeCmd w = .ok (.openSession .frame))
    ∧ (cwOp w ≠ 0x01#8 → w.getLsbD 8 = true → ∃ e, decodeCmd w = .error e)
    ∧ ∀ c, decodeCmd w = .ok c → (∀ m, c ≠ .openSession m) → w.getLsbD 8 = false

/-- 30_encoding.md R104: which words are illegal, how an illegal one ends, and that REQADDR and WAITGEN are illegal in
PERIOD mode. -/
def Obligations.IllegalWordsEndAtOnce : Prop :=
  (∀ w : Word, (∃ e, decodeCmd w = .error e) ↔
      ((w.extractLsb' 0 8).toNat = 0 ∨ 8 ≤ (w.extractLsb' 0 8).toNat ∨ w.extractLsb' 9 23 ≠ 0#23
        ∨ (w.getLsbD 8 = true ∧ (w.extractLsb' 0 8).toNat ≠ 1)))
  ∧ (∀ (s : State) (p : Nat) (q : Port) (w : Word) (e : DecodeError) (off : BitVec 12),
      s.Ready p q → decodeCmd w = .error e → off.toNat = 0x100 + 0x20 * p + 0x10 →
      exec (.mmioWrite off .w32 w) s = .next (s.finish p .illegalCommand 0#32))
  ∧ (∀ (s : State) (p : Nat) (q : Port), s.Ready p q → s.session = .opened → s.mode = .period →
      exec (.reqaddr p) s = .next (s.finish p .illegalCommand 0#32)
      ∧ exec (.waitgen p) s = .next (s.finish p .illegalCommand 0#32))

/-- The command words of 30_encoding.md R102, the six illegal words of 95_test_vectors.md section 2.2, and the four event
rows of the opcode table that need no field. -/
def Obligations.TableWordsDecode : Prop :=
  decodeCmd 0x00000001#32 = .ok (.openSession .period) ∧ decodeCmd 0x00000101#32 = .ok (.openSession .frame)
  ∧ decodeCmd 0x00000002#32 = .ok .close ∧ decodeCmd 0x00000003#32 = .ok .start
  ∧ decodeCmd 0x00000004#32 = .ok .stop ∧ decodeCmd 0x00000005#32 = .ok .getoff
  ∧ decodeCmd 0x00000006#32 = .ok .reqaddr ∧ decodeCmd 0x00000007#32 = .ok .waitgen
  ∧ decodeCmd 0x00000000#32 = .error .illegalOpcode ∧ decodeCmd 0x00000008#32 = .error .illegalOpcode
  ∧ decodeCmd 0x000000FF#32 = .error .illegalOpcode ∧ decodeCmd 0x00000102#32 = .error .modeBit
  ∧ decodeCmd 0x00000201#32 = .error .reservedBits ∧ decodeCmd 0x80000003#32 = .error .reservedBits
  ∧ decodeTableWord 8 0x81 = some .complete ∧ decodeTableWord 8 0x82 = some .notify
  ∧ decodeTableWord 8 0x84 = some .strayDone ∧ decodeTableWord 8 0x85 = some .reset

/-- The next item of the feed (log entry 1), when it decodes, is the instruction that the step runs; around exec the step
only takes the item off the feed. -/
def Obligations.StepRunsTheDecodedInstruction : Prop :=
  ∀ (s : State) (e : Entry) (rest : List Entry) (i : Instr),
    s.feed = e :: rest → decode e = .ok i → step s = exec i { s with feed := rest }

/-- The other steps (log entries 1, 2, 5, 15, 19 and 25): with an empty feed nothing happens; an illegal word on a port of the
window is still issued (30_encoding.md R104), and a word on a port outside it is refused by name; a host memory access is
performed; a host's turn runs the next register access of its program, which it drops unless it is a WAITDONE of a BUSY
port (30_encoding.md R112), and passes when there is none; a record of no event is refused by name. -/
def Obligations.StepWithoutAnInstruction : Prop :=
  (∀ s : State, s.feed = [] → step s = .next s)
  ∧ (∀ (s : State) (p : Nat) (w : Word) (e : DecodeError) (rest : List Entry),
      s.feed = .command p w :: rest → p < 120 → decodeCmd w = .error e →
      step s = .next (State.issue p w { s with feed := rest }))
  ∧ (∀ (s : State) (p : Nat) (w : Word) (rest : List Entry),
      s.feed = .command p w :: rest → 120 ≤ p → step s = .refused (.undecodable .badPort))
  ∧ (∀ (s : State) (a : Word) (b : Byte) (rest : List Entry),
      s.feed = .hostStore a b :: rest → step s = hostStore a b { s with feed := rest })
  ∧ (∀ (s : State) (a : Word) (rest : List Entry),
      s.feed = .hostLoad a :: rest → step s = hostLoad a { s with feed := rest })
  ∧ (∀ (s : State) (m : Nat) (rest : List Entry), s.feed = .hostTurn m :: rest →
      s.hosts[m]? = none ∨ s.hosts[m]? = some [] → step s = .next { s with feed := rest })
  ∧ (∀ (s : State) (m : Nat) (op : HostOp) (ops : List HostOp) (rest : List Entry),
      s.feed = .hostTurn m :: rest → s.hosts[m]? = some (op :: ops) →
      ((∀ p, op ≠ .waitdone p) → step s = exec op.instr { s with feed := rest, hosts := s.hosts.set m ops })
      ∧ ∀ (p : Nat) (q : Port), op = .waitdone p → p < 120 → s.ports[p]? = some q →
        step s = exec op.instr { s with feed := rest, hosts := if q.busy then s.hosts else s.hosts.set m ops })
  ∧ (∀ (s : State) (r : BitVec 64) (e : DecodeError) (rest : List Entry),
      s.feed = .event r :: rest → decodeEvent r = .error e → step s = .refused (.undecodable e))

/-- 10_state.md R48: CMD reads 0, and a write of a command word to it issues that command on the port. -/
def Obligations.CmdWriteIssuesTheCommand : Prop :=
  ∀ (s : State) (p : Nat) (off : BitVec 12), off.toNat = 0x100 + 0x20 * p + 0x10 →
    (∀ (w : Word) (c : Cmd), decodeCmd w = .ok c → exec (.mmioWrite off .w32 w) s = exec (c.onPort p) s)
    ∧ exec (.mmioRead off .w32) s = .next { s with busData := 0#32 }

/-! ### The commands -/

/-- 41_engine.md R155. -/
def Obligations.OpenSetsTheSession : Prop :=
  ∀ (s : State) (p : Nat) (m : Mode) (q : Port), s.Ready p q →
    (s.engine = .idle → q.arg2 ≠ 0#32 → q.arg2.toNat ≤ q.arg1.toNat → q.arg0.toNat + q.arg1.toNat ≤ 0xFFFFFFFF →
      (m = .frame → q.arg2 = q.arg1) →
      exec (.openCmd p m) s = .next (State.finish p .ok 0#32
        { s with
          mode := m
          win := { start := q.arg0, fin := q.arg0 + q.arg1, len := q.arg1, period := q.arg2, sink := q.arg3,
                   pos := q.arg0, chunk := 0#32 }
          pendValid := false
          session := .opened }))
    ∧ (s.engine = .running ∨ q.arg2 = 0#32 ∨ q.arg1.toNat < q.arg2.toNat
        ∨ 0xFFFFFFFF < q.arg0.toNat + q.arg1.toNat ∨ (m = .frame ∧ q.arg2 ≠ q.arg1) →
      exec (.openCmd p m) s = .next (s.finish p .invalidConfig 0#32))

/-- 41_engine.md R158. -/
def Obligations.CloseEndsTheSession : Prop :=
  ∀ (s : State) (p : Nat) (q : Port), s.Ready p q →
    (s.engine = .idle →
      exec (.close p) s = .next (State.finish p .ok 0#32 { s with session := .closed, pendValid := false }))
    ∧ (s.engine = .running → exec (.close p) s = .next (s.finish p .invalidConfig 0#32))

/-- 41_engine.md R160. `w0` is the window after the latched swap, if there is one, and `c` the first chunk's length. -/
def Obligations.StartArmsTheFirstChunk : Prop :=
  ∀ (s : State) (p : Nat) (q : Port), s.Ready p q →
    (s.session = .closed ∨ s.engine = .running → exec (.start p) s = .next (s.finish p .invalidConfig 0#32))
    ∧ (s.session = .opened → s.engine = .idle →
        let w0 : Window :=
          if s.mode = .frame ∧ s.pendValid = true then
            { s.win with start := s.pendAddr, fin := s.pendAddr + s.win.len, pos := s.pendAddr }
          else s.win
        let c := min w0.period.toNat (w0.fin.toNat - w0.start.toNat)
        let w1 : Window := { w0 with pos := w0.start, chunk := BitVec.ofNat 32 c }
        let pv := if s.mode = .frame then false else s.pendValid
        (c ≠ 0 → ∃ r, exec (.start p) s = .next (State.finish p .ok 0#32
          { s with
            win := w1
            pendValid := pv
            ch := { active := true, src := w1.pos, dst := w1.sink, len := w1.chunk, rem := w1.chunk, done := false }
            engine := .running
            raced := r }))
        ∧ (c = 0 → ∃ r, exec (.start p) s = .next (State.finish p .zeroLength 0#32
          { s with
            win := w1
            pendValid := pv
            ch := { s.ch with active := false, done := false, rem := 0#32 }
            raced := r })))

/-- 41_engine.md R165. Which of ABORT and DRAIN happens is a free value (log entry 6), so both are left open. -/
def Obligations.StopIdlesTheEngine : Prop :=
  ∀ (s : State) (p : Nat) (q : Port), s.Ready p q →
    (s.ch.active = false → exec (.stop p) s = .next (State.finish p .ok 0#32 { s with engine := .idle }))
    ∧ (s.ch.active = true → ∃ d,
        exec (.stop p) s = .next (State.finish p .ok 0#32
            { s with engine := .idle, ch := { s.ch with active := false, rem := 0#32 }, draws := d })
        ∨ exec (.stop p) s = .next (State.finish p .ok 0#32 { s with engine := .idle, draws := d }))

/-- 43_position.md R220. -/
def Obligations.GetoffReportsTheOffset : Prop :=
  ∀ (s : State) (p : Nat) (q : Port), s.Ready p q →
    (s.session = .closed → exec (.getoff p) s = .next (s.finish p .invalidConfig 0#32))
    ∧ (s.session = .opened →
        let inflight := if s.engine = .running ∧ s.params.hasRemainingCounter = true then
            s.win.chunk.toNat - min s.ch.rem.toNat s.win.chunk.toNat else 0
        let off := (s.win.pos.toNat - s.win.start.toNat) + inflight
        exec (.getoff p) s
          = .next (s.finish p .ok (BitVec.ofNat 32 (if off ≥ s.win.len.toNat then 0 else off))))

/-- 44_vsync.md R245. -/
def Obligations.ReqaddrLatchesTheSwap : Prop :=
  ∀ (s : State) (p : Nat) (q : Port), s.Ready p q →
    (s.session = .closed → exec (.reqaddr p) s = .next (s.finish p .invalidConfig 0#32))
    ∧ (s.session = .opened → s.mode = .period → exec (.reqaddr p) s = .next (s.finish p .illegalCommand 0#32))
    ∧ (s.session = .opened → s.mode = .frame → 0xFFFFFFFF < q.arg0.toNat + s.win.len.toNat →
        exec (.reqaddr p) s = .next (s.finish p .invalidConfig 0#32))
    ∧ (s.session = .opened → s.mode = .frame → q.arg0.toNat + s.win.len.toNat ≤ 0xFFFFFFFF →
        exec (.reqaddr p) s = .next (State.finish p .ok
          (s.gen + (if s.notifyPending = .frame then 2#32 else 1#32))
          { s with pendAddr := q.arg0, pendValid := true }))

/-- 44_vsync.md R250. Which targets are reached is R240's, stated by `ReachedComparesSerially`. -/
def Obligations.WaitgenBlocksOrEnds : Prop :=
  ∀ (s : State) (p : Nat) (q : Port), s.Ready p q →
    (s.session = .closed → exec (.waitgen p) s = .next (s.finish p .invalidConfig 0#32))
    ∧ (s.session = .opened → s.mode = .period → exec (.waitgen p) s = .next (s.finish p .illegalCommand 0#32))
    ∧ (s.session = .opened → s.mode = .frame → reached s.gen q.arg0 = true →
        exec (.waitgen p) s = .next (s.finish p .ok 1#32))
    ∧ (s.session = .opened → s.mode = .frame → reached s.gen q.arg0 = false → q.arg1 = 0#32 →
        exec (.waitgen p) s = .next (s.finish p .ok 0#32))
    ∧ (s.session = .opened → s.mode = .frame → reached s.gen q.arg0 = false → q.arg1 ≠ 0#32 →
        exec (.waitgen p) s = .next { s with ports := s.ports.modify p fun r =>
          { r with waitTarget := q.arg0, waitTmo := q.arg1, busy := true } })

/-! ### The events -/

/-- 44_vsync.md R255: the step, at any point of the wait, and that in a weakly fair run (70_reset_and_hazards.md R362) no
wait lasts forever. -/
def Obligations.WaitTimeoutEndsTheWait : Prop :=
  (∀ (s : State) (p : Nat) (q : Port), s.ports[p]? = some q → q.busy = true →
    exec (.waitTimeout p) s = .next { s with ports := s.ports.modify p fun r =>
      { r with result := 0#32, code := .ok, busy := false } })
  ∧ ∀ (σ : Nat → Entry) (r : Nat → State), IsRun σ r → WeaklyFair σ r →
    ∀ (n p : Nat) (q : Port), (r n).ports[p]? = some q → q.busy = true →
      ∃ (m : Nat) (x : Port), n ≤ m ∧ (r m).ports[p]? = some x ∧ x.busy = false

/-- 41_engine.md R170, where the `k` bytes name memory (20_memory.md R71). To the sink, the bytes come in ascending order
and each is what memory holds, unless a host wrote it while the chunk was armed (20_memory.md R87). From the source, the
next `k` bytes of the stream land at ascending addresses and no other byte of memory changes. -/
def Obligations.BeatMovesTheNextBytes : Prop :=
  ∀ (s : State) (k : Nat), s.ch.active = true → 1 ≤ k → k ≤ s.ch.rem.toNat →
    let a0 := s.ch.src.toNat + (s.ch.len.toNat - s.ch.rem.toNat)
    let c : Channel :=
      if k = s.ch.rem.toNat then { s.ch with rem := 0#32, active := false, done := true }
      else { s.ch with rem := s.ch.rem - BitVec.ofNat 32 k }
    s.params.AdmitsRange a0 k →
    (s.params.direction = .memToSink → ∃ (out : List SinkByte) (d : Nat),
      out.length = k
      ∧ (∀ j, j < k → (a0 + j) ∉ s.raced → (out[j]?).map SinkByte.byte = some (s.memByte (a0 + j)))
      ∧ exec (.beat k) s = .next { s with sink := s.sink ++ out, draws := d, ch := c })
    ∧ (s.params.direction = .sourceToMem → ∃ m : Memory,
      exec (.beat k) s = .next { s with mem := m, sourceTaken := s.sourceTaken + k, ch := c }
      ∧ (∀ j, j < k → Memory.read? m (a0 + j) = some (Config.sourceByte (s.sourceTaken + j)))
      ∧ (∀ a, a < a0 ∨ a0 + k ≤ a → Memory.read? m a = Memory.read? s.mem a))

/-- 42_completion.md R190. `w2` is the window after the commit, the wrap and the latched swap, and `c` the next chunk's
length. -/
def Obligations.CompleteCommitsAndRearms : Prop :=
  ∀ s : State, s.ch.done = true → s.notifyPending = .none →
    (s.engine = .idle → exec .complete s = .next { s with ch := { s.ch with done := false } })
    ∧ (s.engine = .running →
        let moved := s.win.pos + s.win.chunk
        let w1 : Window := { s.win with pos := if s.win.fin.toNat ≤ moved.toNat then s.win.start else moved }
        let w2 : Window :=
          if s.mode = .frame ∧ s.pendValid = true then
            { w1 with start := s.pendAddr, fin := s.pendAddr + s.win.len, pos := s.pendAddr }
          else w1
        let c := min w2.period.toNat (w2.fin.toNat - w2.pos.toNat)
        let w3 : Window := { w2 with chunk := BitVec.ofNat 32 c }
        let pv := if s.mode = .frame then false else s.pendValid
        let n : NotifyKind := if s.mode = .frame then .frame else .period
        (c ≠ 0 → ∃ r, exec .complete s = .next
          { s with
            win := w3
            pendValid := pv
            ch := { active := true, src := w3.pos, dst := w3.sink, len := w3.chunk, rem := w3.chunk, done := false }
            notifyPending := n
            raced := r })
        ∧ (c = 0 → ∃ r, exec .complete s = .next
          { s with
            win := w3
            pendValid := pv
            ch := { s.ch with active := false, done := false, rem := 0#32 }
            engine := .idle
            faultZl := true
            irqStatus := s.irqStatus ||| 0b10#2
            notifyPending := n
            raced := r }))

/-- 42_completion.md R195. Which targets are reached is 44_vsync.md R240's, stated by `ReachedComparesSerially`. -/
def Obligations.NotifyCountsAndReleases : Prop :=
  ∀ s : State,
    (s.notifyPending = .period → exec .notify s = .next
      { s with notifyPending := .none, periodCount := s.periodCount + 1#32, irqStatus := s.irqStatus ||| 0b01#2 })
    ∧ (s.notifyPending = .frame → exec .notify s = .next
      { s with
        notifyPending := .none
        periodCount := s.periodCount + 1#32
        irqStatus := s.irqStatus ||| 0b01#2
        gen := s.gen + 1#32
        ports := s.ports.map fun q =>
          if q.busy = true ∧ reached (s.gen + 1#32) q.waitTarget = true then
            { q with result := 1#32, code := .ok, busy := false }
          else q })

/-- 42_completion.md R200. -/
def Obligations.StrayDoneRaisesTheSignal : Prop :=
  ∀ s : State, s.engine = .idle → exec .strayDone s = .next { s with ch := { s.ch with done := true } }

/-- 70_reset_and_hazards.md R340: every element takes the value of 10_state.md R60; memory and the streams stay. That the
instance, the host programs, the feed, `busData` and `draws` stay too is the model's choice (log entry 18; also 6, 13 and
25). -/
def Obligations.ResetRestoresEveryElement : Prop :=
  ∀ s : State, ∃ r, exec .reset s = .next
    { params := s.params
      session := .closed
      engine := .idle
      mode := .period
      win := { start := 0#32, fin := 0#32, len := 0#32, period := 0#32, sink := 0#32, pos := 0#32, chunk := 0#32 }
      ch := { active := false, src := 0#32, dst := 0#32, len := 0#32, rem := 0#32, done := false }
      notifyPending := .none
      periodCount := 0#32
      gen := 0#32
      pendAddr := 0#32
      pendValid := false
      irqStatus := 0#2
      irqEnable := 0#2
      faultZl := false
      ports := s.ports.map fun _ =>
        { arg0 := 0#32, arg1 := 0#32, arg2 := 0#32, arg3 := 0#32, result := 0#32, code := .ok, busy := false,
          waitTarget := 0#32, waitTmo := 0#32 }
      mem := s.mem
      sink := s.sink
      sourceTaken := s.sourceTaken
      raced := r
      busData := s.busData
      hosts := s.hosts
      feed := s.feed
      draws := s.draws }

/-- 10_state.md R60 and 70_reset_and_hazards.md R341, of the reference instance after reset. -/
def Obligations.ResetStateIsQuiet : Prop :=
  State.reset.session = .closed ∧ State.reset.engine = .idle ∧ State.reset.mode = .period
  ∧ State.reset.win.chunk = 0#32 ∧ State.reset.ch.active = false ∧ State.reset.ch.done = false
  ∧ State.reset.notifyPending = .none ∧ State.reset.periodCount = 0#32 ∧ State.reset.gen = 0#32
  ∧ State.reset.irqStatus = 0#2 ∧ State.reset.irqEnable = 0#2 ∧ State.reset.faultZl = false
  ∧ State.reset.ports.length = 4 ∧ (∀ q ∈ State.reset.ports, q.busy = false ∧ q.code = .ok ∧ q.result = 0#32)
  ∧ State.reset.irqLine = false ∧ State.reset.fairEnabled = false ∧ State.reset.strayDoneEnabled = true
  ∧ exec (.mmioRead 0x000#12 .w32) State.reset = .next { State.reset with busData := 0x43444D41#32 }
  ∧ exec (.mmioRead 0x004#12 .w32) State.reset = .next { State.reset with busData := 0x01200401#32 }

/-- An event whose agent is not enabled changes nothing: its turn passes. The enabling conditions are those of R170, R190,
R195, R200 and R255; that a turn passes is the model's choice (log entry 3). -/
def Obligations.DisabledEventPassesItsTurn : Prop :=
  ∀ s : State,
    (∀ k, s.ch.active = false ∨ k = 0 ∨ s.ch.rem.toNat < k → exec (.beat k) s = .next s)
    ∧ (s.ch.done = false ∨ s.notifyPending ≠ .none → exec .complete s = .next s)
    ∧ (s.notifyPending = .none → exec .notify s = .next s)
    ∧ (s.engine = .running → exec .strayDone s = .next s)
    ∧ (∀ p, (∀ q, s.ports[p]? = some q → q.busy = false) → exec (.waitTimeout p) s = .next s)

/-! ### The registers -/

/-- 10_state.md R36, R41, R42, R45: constants and counters read as the element of the same name; writes are ignored. -/
def Obligations.ReadOnlyRegistersOfTheBlock : Prop :=
  ∀ (s : State) (off : BitVec 12) (x : Word),
    (off, x) ∈ [(0x000#12, 0x43444D41#32), (0x014#12, s.periodCount), (0x018#12, s.gen), (0x028#12, s.win.start),
      (0x02C#12, s.win.fin), (0x030#12, s.win.period), (0x034#12, s.win.sink), (0x038#12, s.pendAddr),
      (0x03C#12, s.win.len)] →
    exec (.mmioRead off .w32) s = .next { s with busData := x }
    ∧ ∀ v, exec (.mmioWrite off .w32 v) s = .next s

/-- 10_state.md R43 (each read a snapshot at its step) and R44 (CH_REM reads 0 without the counter). -/
def Obligations.PositionRegistersAreSnapshots : Prop :=
  ∀ s : State,
    exec (.mmioRead 0x01C#12 .w32) s = .next { s with busData := s.win.pos }
    ∧ exec (.mmioRead 0x020#12 .w32) s = .next { s with busData := s.win.chunk }
    ∧ (s.params.hasRemainingCounter = true → exec (.mmioRead 0x024#12 .w32) s = .next { s with busData := s.ch.rem })
    ∧ (s.params.hasRemainingCounter = false → exec (.mmioRead 0x024#12 .w32) s = .next { s with busData := 0#32 })
    ∧ (∀ v, exec (.mmioWrite 0x01C#12 .w32 v) s = .next s ∧ exec (.mmioWrite 0x020#12 .w32 v) s = .next s
        ∧ exec (.mmioWrite 0x024#12 .w32 v) s = .next s)

/-- 10_state.md R37, R38 and R50: the bits of CAPS, STATE and PSTATUS; writes are ignored. -/
def Obligations.StatusWordsShowTheirFields : Prop :=
  (∀ s : State, ∃ x : Word,
    exec (.mmioRead 0x004#12 .w32) s = .next { s with busData := x }
    ∧ (x.getLsbD 0 = true ↔ s.params.hasRemainingCounter = true)
    ∧ (x.getLsbD 1 = true ↔ s.params.direction = .sourceToMem)
    ∧ x.extractLsb' 2 6 = 0#6 ∧ x.extractLsb' 8 8 = BitVec.ofNat 8 s.ports.length
    ∧ x.extractLsb' 16 8 = 0x20#8 ∧ x.extractLsb' 24 8 = 0x01#8
    ∧ ∀ v, exec (.mmioWrite 0x004#12 .w32 v) s = .next s)
  ∧ (∀ s : State, ∃ x : Word,
    exec (.mmioRead 0x008#12 .w32) s = .next { s with busData := x }
    ∧ (x.getLsbD 0 = true ↔ s.session = .opened) ∧ (x.getLsbD 1 = true ↔ s.engine = .running)
    ∧ (x.getLsbD 2 = true ↔ s.mode = .frame) ∧ x.getLsbD 3 = s.ch.active ∧ x.getLsbD 4 = s.ch.done
    ∧ x.getLsbD 5 = s.pendValid
    ∧ (s.notifyPending = .none → x.extractLsb' 6 2 = 0#2) ∧ (s.notifyPending = .period → x.extractLsb' 6 2 = 1#2)
    ∧ (s.notifyPending = .frame → x.extractLsb' 6 2 = 2#2)
    ∧ x.getLsbD 8 = s.faultZl ∧ x.extractLsb' 9 23 = 0#23
    ∧ ∀ v, exec (.mmioWrite 0x008#12 .w32 v) s = .next s)
  ∧ (∀ (s : State) (p : Nat) (q : Port) (off : BitVec 12),
    s.ports[p]? = some q → off.toNat = 0x100 + 0x20 * p + 0x18 → ∃ x : Word,
    exec (.mmioRead off .w32) s = .next { s with busData := x }
    ∧ x.getLsbD 31 = q.busy ∧ x.extractLsb' 4 27 = 0#27
    ∧ (q.code = .ok → x.extractLsb' 0 4 = 0#4) ∧ (q.code = .invalidConfig → x.extractLsb' 0 4 = 1#4)
    ∧ (q.code = .hwNotResponding → x.extractLsb' 0 4 = 2#4) ∧ (q.code = .illegalCommand → x.extractLsb' 0 4 = 3#4)
    ∧ (q.code = .zeroLength → x.extractLsb' 0 4 = 4#4)
    ∧ ∀ v, exec (.mmioWrite off .w32 v) s = .next s)

/-- 10_state.md R39 and R40. -/
def Obligations.IrqRegistersReadAndWrite : Prop :=
  ∀ (s : State) (v : Word),
    exec (.mmioRead 0x00C#12 .w32) s = .next { s with busData := s.irqStatus.setWidth 32 }
    ∧ exec (.mmioRead 0x010#12 .w32) s = .next { s with busData := s.irqEnable.setWidth 32 }
    ∧ (∃ b : BitVec 2, exec (.mmioWrite 0x00C#12 .w32 v) s = .next { s with irqStatus := b }
        ∧ ∀ j, j < 2 → b.getLsbD j = (s.irqStatus.getLsbD j && !v.getLsbD j))
    ∧ (∃ b : BitVec 2, exec (.mmioWrite 0x010#12 .w32 v) s = .next { s with irqEnable := b }
        ∧ ∀ j, j < 2 → b.getLsbD j = v.getLsbD j)

/-- 10_state.md R47 and R49: a port's ARG registers take and keep what is written, BUSY or not; RESULT is read-only. -/
def Obligations.PortRegistersReadAndWrite : Prop :=
  ∀ (s : State) (p : Nat) (q : Port), s.ports[p]? = some q →
    (∀ (off : BitVec 12), off.toNat = 0x100 + 0x20 * p →
      exec (.mmioRead off .w32) s = .next { s with busData := q.arg0 }
      ∧ ∀ v, exec (.mmioWrite off .w32 v) s = .next { s with ports := s.ports.set p { q with arg0 := v } })
    ∧ (∀ (off : BitVec 12), off.toNat = 0x100 + 0x20 * p + 0x04 →
      exec (.mmioRead off .w32) s = .next { s with busData := q.arg1 }
      ∧ ∀ v, exec (.mmioWrite off .w32 v) s = .next { s with ports := s.ports.set p { q with arg1 := v } })
    ∧ (∀ (off : BitVec 12), off.toNat = 0x100 + 0x20 * p + 0x08 →
      exec (.mmioRead off .w32) s = .next { s with busData := q.arg2 }
      ∧ ∀ v, exec (.mmioWrite off .w32 v) s = .next { s with ports := s.ports.set p { q with arg2 := v } })
    ∧ (∀ (off : BitVec 12), off.toNat = 0x100 + 0x20 * p + 0x0C →
      exec (.mmioRead off .w32) s = .next { s with busData := q.arg3 }
      ∧ ∀ v, exec (.mmioWrite off .w32 v) s = .next { s with ports := s.ports.set p { q with arg3 := v } })
    ∧ (∀ (off : BitVec 12), off.toNat = 0x100 + 0x20 * p + 0x14 →
      exec (.mmioRead off .w32) s = .next { s with busData := q.result }
      ∧ ∀ v, exec (.mmioWrite off .w32 v) s = .next s)

/-- 10_state.md R46: the reserved offsets read as zero and ignore writes. -/
def Obligations.ReservedOffsetsAreRazWi : Prop :=
  ∀ (s : State) (off : BitVec 12), off.toNat % 4 = 0 →
    ((0x040 ≤ off.toNat ∧ off.toNat ≤ 0x0FC)
      ∨ (0x100 ≤ off.toNat ∧ (off.toNat - 0x100) % 0x20 = 0x1C)
      ∨ 0x100 + 0x20 * s.ports.length ≤ off.toNat ∧ 0x100 ≤ off.toNat) →
    exec (.mmioRead off .w32) s = .next { s with busData := 0#32 }
    ∧ ∀ v, exec (.mmioWrite off .w32 v) s = .next s

/-- 60_exceptions.md R308 and 20_memory.md R78: the one way a register access stops. -/
def Obligations.BusErrorNamesTheOffset : Prop :=
  ∀ (s : State) (off : BitVec 12) (w : AccessWidth) (v : Word),
    (w ≠ .w32 ∨ off.toNat % 4 ≠ 0 →
      exec (.mmioRead off w) s = .fault (.busError off) ∧ exec (.mmioWrite off w v) s = .fault (.busError off))
    ∧ (w = .w32 ∧ off.toNat % 4 = 0 →
      (∃ x, exec (.mmioRead off w) s = .next { s with busData := x }) ∧ ∃ t, exec (.mmioWrite off w v) s = .next t)

/-- 60_exceptions.md R310: the line, whatever the enables; which steps, and no others, set and clear its two sources; and
which change the enables. -/
def Obligations.IrqSourcesAndLine : Prop :=
  (∀ s : State, s.irqLine = true ↔
    (s.irqStatus.getLsbD 0 = true ∧ s.irqEnable.getLsbD 0 = true)
      ∨ (s.irqStatus.getLsbD 1 = true ∧ s.irqEnable.getLsbD 1 = true))
  ∧ ∀ (i : Instr) (s t : State), exec i s = .next t →
    (s.irqStatus.getLsbD 0 = false → t.irqStatus.getLsbD 0 = true → i = .notify)
    ∧ (s.irqStatus.getLsbD 1 = false → t.irqStatus.getLsbD 1 = true → i = .complete ∧ t.faultZl = true)
    ∧ (∀ j, j < 2 → s.irqStatus.getLsbD j = true → t.irqStatus.getLsbD j = false →
        i = .reset ∨ ∃ v, i = .mmioWrite 0x00C#12 .w32 v ∧ v.getLsbD j = true)
    ∧ (t.irqEnable ≠ s.irqEnable → i = .reset ∨ ∃ v, i = .mmioWrite 0x010#12 .w32 v)
    ∧ (i = .notify → s.notifyPending ≠ .none → t.irqStatus.getLsbD 0 = true)
    ∧ (s.faultZl = false → t.faultZl = true → t.irqStatus.getLsbD 1 = true)
    ∧ (∀ j, j < 2 → (i = .reset ∨ ∃ v, i = .mmioWrite 0x00C#12 .w32 v ∧ v.getLsbD j = true) →
        t.irqStatus.getLsbD j = false)

/-! ### The micro-operations -/

/-- 40_tracker.md R130, R131 and R136, and 44_vsync.md R242. -/
def Obligations.TrackerAndSwapMoveTheWindow : Prop :=
  (∀ w : Window,
    (w.fin.toNat ≤ w.pos.toNat → w.advance = { w with pos := w.start })
    ∧ (w.pos.toNat < w.fin.toNat → w.advance = w)
    ∧ (w.pos.toNat ≤ w.fin.toNat → ∃ c : Word,
        w.nextChunk = { w with chunk := c } ∧ c.toNat = min w.period.toNat (w.fin.toNat - w.pos.toNat))
    ∧ (w.pos.toNat + w.chunk.toNat ≤ w.fin.toNat → ∃ c : Word,
        let x := if w.pos.toNat + w.chunk.toNat = w.fin.toNat then w.start else w.pos + w.chunk
        w.trackNext = { w with pos := x, chunk := c }
        ∧ c.toNat = min w.period.toNat (w.fin.toNat - x.toNat)))
  ∧ ∀ s : State, s.pendAddr.toNat + s.win.len.toNat ≤ 0xFFFFFFFF →
    s.applySwap = { s with
      win := { s.win with start := s.pendAddr, fin := s.pendAddr + s.win.len, pos := s.pendAddr }
      pendValid := false }
    ∧ s.applySwap.win.fin.toNat = s.pendAddr.toNat + s.win.len.toNat

/-- 41_engine.md R150. -/
def Obligations.ArmResetsThenPrograms : Prop :=
  ∀ s : State,
    (s.win.chunk = 0#32 → ∃ r, s.arm =
      ({ s with ch := { s.ch with active := false, done := false, rem := 0#32 }, raced := r }, .armZero))
    ∧ (s.win.chunk ≠ 0#32 → ∃ r, s.arm =
      ({ s with
          ch := { active := true, src := s.win.pos, dst := s.win.sink, len := s.win.chunk, rem := s.win.chunk,
                  done := false }
          raced := r }, .armOk))

/-- 44_vsync.md R240's pseudocode: serial-number comparison, which is plain comparison within 2^31, and its worked examples.
At a target exactly 2^31 ahead the rule's prose says otherwise (log entry 23). -/
def Obligations.ReachedComparesSerially : Prop :=
  (∀ g t : Word, reached g t = true ↔ (g.toNat + (2 ^ 32 - t.toNat)) % 2 ^ 32 < 2 ^ 31)
  ∧ (∀ g t : Word, g.toNat < t.toNat + 2 ^ 31 → t.toNat ≤ g.toNat + 2 ^ 31 →
      g.toNat + 2 ^ 31 ≠ t.toNat → (reached g t = true ↔ t.toNat ≤ g.toNat))
  ∧ (∀ g : Word, reached g (g + 0x80000000#32) = false ∧ reached g (g + 0x80000001#32) = true)
  ∧ reached 6#32 6#32 = true ∧ reached 5#32 6#32 = false ∧ reached 1#32 0xFFFFFFFF#32 = true

/-- 45_host_interface.md R276 and 60_exceptions.md R306. -/
def Obligations.PortFinishAndFault : Prop :=
  (∀ (s : State) (p : Nat) (c : Code) (r : Word) (q : Port), s.ports[p]? = some q →
    s.finish p c r = { s with ports := s.ports.set p { q with code := c, result := r, busy := false } })
  ∧ (∀ s : State, ∃ b : BitVec 2, s.raiseZeroLength = { s with faultZl := true, irqStatus := b }
      ∧ b.getLsbD 1 = true ∧ b.getLsbD 0 = s.irqStatus.getLsbD 0)

/-- 60_exceptions.md R301 and R302: the causes of every code, and that a failed command changes only its port's CODE and
RESULT. -/
def Obligations.CausesOfEveryCode : Prop :=
  ∀ (s : State) (p : Nat) (q : Port) (w : Word), s.Ready p q →
    ((∀ c, decodeCmd w ≠ .ok c) → s.issue p w = s.finish p .illegalCommand 0#32)
    ∧ (∀ m, decodeCmd w = .ok (.openSession m) →
        (s.engine = .running ∨ q.arg2 = 0#32 ∨ q.arg1.toNat < q.arg2.toNat
          ∨ 0xFFFFFFFF < q.arg0.toNat + q.arg1.toNat ∨ (m = .frame ∧ q.arg2 ≠ q.arg1)) →
        s.issue p w = s.finish p .invalidConfig 0#32)
    ∧ (decodeCmd w = .ok .close → s.engine = .running → s.issue p w = s.finish p .invalidConfig 0#32)
    ∧ (decodeCmd w = .ok .start → s.session = .closed ∨ s.engine = .running →
        s.issue p w = s.finish p .invalidConfig 0#32)
    ∧ (decodeCmd w = .ok .start → s.session = .opened → s.engine = .idle → s.startWindow.arm.2 = .armZero →
        ∃ t : State, s.issue p w = t.finish p .zeroLength 0#32)
    ∧ (decodeCmd w = .ok .stop → ∃ t : State, s.issue p w = t.finish p .ok 0#32)
    ∧ (decodeCmd w = .ok .getoff → s.session = .closed → s.issue p w = s.finish p .invalidConfig 0#32)
    ∧ (decodeCmd w = .ok .reqaddr →
        (s.session = .closed → s.issue p w = s.finish p .invalidConfig 0#32)
        ∧ (s.session = .opened → s.mode = .period → s.issue p w = s.finish p .illegalCommand 0#32)
        ∧ (s.session = .opened → s.mode = .frame → 0xFFFFFFFF < q.arg0.toNat + s.win.len.toNat →
            s.issue p w = s.finish p .invalidConfig 0#32))
    ∧ (decodeCmd w = .ok .waitgen →
        (s.session = .closed → s.issue p w = s.finish p .invalidConfig 0#32)
        ∧ (s.session = .opened → s.mode = .period → s.issue p w = s.finish p .illegalCommand 0#32))
    ∧ (∀ r, (s.issue p w).ports[p]? = some r → r.busy = false → r.code ≠ .ok →
        r.result = 0#32 ∧ (r.code ≠ .zeroLength → s.issue p w = s.finish p r.code 0#32))

/-! ### Invariants and whole-machine rules -/

/-- The invariant of Safety.lean (10_state.md R52 to R58, 40_tracker.md R132) at reset. -/
def Obligations.InvariantHoldsAtReset : Prop := State.reset.Inv

/-- The invariant of Safety.lean (10_state.md R52 to R58, 40_tracker.md R132) is kept by every step of every agent. -/
def Obligations.EveryStepKeepsTheInvariant : Prop :=
  ∀ s t : State, s.Inv → step s = .next t → t.Inv

/-- 00_scope.md R6: each parameter is fixed per instance, N_PORTS (the number of ports) among them. -/
def Obligations.ParametersNeverChange : Prop :=
  ∀ s t : State, step s = .next t → t.params = s.params ∧ t.ports.length = s.ports.length

/-- 10_state.md R22: the only steps that write SESSION, ENGINE or MODE. -/
def Obligations.WritersOfTheEngineState : Prop :=
  ∀ (i : Instr) (s t : State), exec i s = .next t →
    (t.session ≠ s.session →
      i = .reset ∨ ∃ p, (∃ m, i.issues = some (p, .openSession m)) ∨ i.issues = some (p, .close))
    ∧ (t.mode ≠ s.mode → i = .reset ∨ ∃ p m, i.issues = some (p, .openSession m))
    ∧ (t.engine ≠ s.engine →
        i = .reset
        ∨ (∃ p, i.issues = some (p, .start) ∧ t.engine = .running)
        ∨ (∃ p, i.issues = some (p, .stop) ∧ t.engine = .idle)
        ∨ (i = .complete ∧ t.engine = .idle ∧ t.faultZl = true))

/-- 10_state.md R24: the only steps that write the TransferWindow, and which of its registers each writes. -/
def Obligations.WritersOfTheWindow : Prop :=
  ∀ (i : Instr) (s t : State), exec i s = .next t →
    (t.win ≠ s.win →
      i = .reset ∨ i = .complete
      ∨ ∃ p, (∃ m, i.issues = some (p, .openSession m)) ∨ i.issues = some (p, .start))
    ∧ ((i = .complete ∨ ∃ p, i.issues = some (p, .start)) →
      t.win.len = s.win.len ∧ t.win.period = s.win.period ∧ t.win.sink = s.win.sink
      ∧ (s.mode = .period ∨ s.pendValid = false → t.win.start = s.win.start ∧ t.win.fin = s.win.fin))

/-- 10_state.md R26: the only steps that write the channel, and which of its elements each writes. -/
def Obligations.WritersOfTheChannel : Prop :=
  ∀ (i : Instr) (s t : State), exec i s = .next t →
    (t.ch ≠ s.ch →
      i = .reset ∨ i = .complete ∨ i = .strayDone ∨ (∃ k, i = .beat k)
      ∨ ∃ p, i.issues = some (p, .start) ∨ i.issues = some (p, .stop))
    ∧ (∀ k, i = .beat k → t.ch.src = s.ch.src ∧ t.ch.dst = s.ch.dst ∧ t.ch.len = s.ch.len
        ∧ t.ch.rem.toNat ≤ s.ch.rem.toNat)
    ∧ (∀ p, i.issues = some (p, .stop) → t.ch.src = s.ch.src ∧ t.ch.dst = s.ch.dst ∧ t.ch.len = s.ch.len
        ∧ t.ch.done = s.ch.done ∧ (t.ch = s.ch ∨ (t.ch.active = false ∧ t.ch.rem = 0#32)))
    ∧ (i = .strayDone → t.ch = s.ch ∨ t.ch = { s.ch with done := true })

/-- 10_state.md R28 and R29: PERIOD_COUNT and GEN are written by NOTIFY and reset alone; NOTIFY counts the one once per
period of either mode and the other once per frame, modulo 2^32. -/
def Obligations.WritersOfTheCounters : Prop :=
  ∀ (i : Instr) (s t : State), exec i s = .next t →
    (t.periodCount ≠ s.periodCount →
      (i = .reset ∧ t.periodCount = 0#32)
      ∨ (i = .notify ∧ s.notifyPending ≠ .none ∧ t.periodCount.toNat = (s.periodCount.toNat + 1) % 2 ^ 32))
    ∧ (t.gen ≠ s.gen →
      (i = .reset ∧ t.gen = 0#32)
      ∨ (i = .notify ∧ s.notifyPending = .frame ∧ t.gen.toNat = (s.gen.toNat + 1) % 2 ^ 32))
    ∧ (i = .notify → s.notifyPending ≠ .none → t.periodCount.toNat = (s.periodCount.toNat + 1) % 2 ^ 32)
    ∧ (i = .notify → s.notifyPending = .frame → t.gen.toNat = (s.gen.toNat + 1) % 2 ^ 32)

/-- 10_state.md R30 and R32: the only steps that write the swap latch and the sticky fault bit. -/
def Obligations.WritersOfLatchAndFaultBit : Prop :=
  ∀ (i : Instr) (s t : State), exec i s = .next t →
    (t.pendAddr ≠ s.pendAddr → i = .reset ∨ ∃ p, i.issues = some (p, .reqaddr))
    ∧ (s.pendValid = false → t.pendValid = true → ∃ p, i.issues = some (p, .reqaddr))
    ∧ (s.pendValid = true → t.pendValid = false →
        i = .reset ∨ i = .complete
        ∨ ∃ p, (∃ m, i.issues = some (p, .openSession m)) ∨ i.issues = some (p, .close)
            ∨ i.issues = some (p, .start))
    ∧ (s.faultZl = false → t.faultZl = true → i = .complete ∧ ¬ s.Inv)
    ∧ (s.faultZl = true → t.faultZl = false → i = .reset)

/-- 10_state.md R20: host writes set the ARG registers, and no step of the block but reset writes them. -/
def Obligations.ArgumentsAreWrittenByTheHost : Prop :=
  ∀ (i : Instr) (s t : State) (p : Nat) (q r : Port), exec i s = .next t → s.ports[p]? = some q →
    t.ports[p]? = some r → (r.arg0, r.arg1, r.arg2, r.arg3) ≠ (q.arg0, q.arg1, q.arg2, q.arg3) →
    i = .reset ∨ ∃ off v k, i = .mmioWrite off .w32 v ∧ regOf off = .arg p k ∧ r.arg k = v

/-- 45_host_interface.md R278: CODE and RESULT of a port change only by its own commands and by the end of its own wait
(and by reset, 70_reset_and_hazards.md R340). -/
def Obligations.PortsKeepTheirOwnResults : Prop :=
  ∀ (i : Instr) (s t : State) (p : Nat) (q r : Port), exec i s = .next t → s.ports[p]? = some q →
    t.ports[p]? = some r → (r.code, r.result) ≠ (q.code, q.result) →
    i.cmdPort = some p ∨ ((i = .notify ∨ i = .waitTimeout p) ∧ q.busy = true ∧ r.busy = false) ∨ i = .reset

/-- 70_reset_and_hazards.md R356: a command on a BUSY port is dropped without a trace; a port slot at or above N_PORTS
ignores it too (10_state.md R46). -/
def Obligations.BusyPortDropsCommands : Prop :=
  ∀ (s : State) (p : Nat), (s.ports[p]? = none ∨ ∃ q, s.ports[p]? = some q ∧ q.busy = true) →
    (∀ c : Cmd, exec (c.onPort p) s = .next s)
    ∧ ∀ (off : BitVec 12) (w : Word), off.toNat = 0x100 + 0x20 * p + 0x10 → exec (.mmioWrite off .w32 w) s = .next s

/-! ### Frames -/

/-- What every command leaves alone: memory, the streams, the counters, the interrupt and fault bits, the pending
notification, the parameters, every other port, and the ARG registers of its own. -/
def Obligations.CommandFrame : Prop :=
  ∀ (p : Nat) (c : Cmd) (s t : State), exec (c.onPort p) s = .next t →
    (∀ a, t.memByte a = s.memByte a) ∧ t.mem = s.mem ∧ t.sink = s.sink ∧ t.sourceTaken = s.sourceTaken
    ∧ t.busData = s.busData ∧ t.feed = s.feed ∧ t.hosts = s.hosts ∧ t.params = s.params
    ∧ t.periodCount = s.periodCount ∧ t.gen = s.gen ∧ t.notifyPending = s.notifyPending
    ∧ t.irqStatus = s.irqStatus ∧ t.irqEnable = s.irqEnable ∧ t.faultZl = s.faultZl
    ∧ (∀ j, j ≠ p → t.ports[j]? = s.ports[j]?)
    ∧ (∀ q r, s.ports[p]? = some q → t.ports[p]? = some r →
        r.arg0 = q.arg0 ∧ r.arg1 = q.arg1 ∧ r.arg2 = q.arg2 ∧ r.arg3 = q.arg3)
    ∧ (c = .getoff ∨ c = .waitgen → t.win = s.win ∧ t.ch = s.ch ∧ t.session = s.session ∧ t.engine = s.engine
        ∧ t.mode = s.mode ∧ t.pendAddr = s.pendAddr ∧ t.pendValid = s.pendValid)
    ∧ (c = .stop → t.win = s.win ∧ t.session = s.session ∧ t.mode = s.mode ∧ t.pendAddr = s.pendAddr
        ∧ t.pendValid = s.pendValid)

/-- What the events that move no byte leave alone, memory and the streams first. -/
def Obligations.EventFrame : Prop :=
  ∀ (i : Instr) (s t : State), exec i s = .next t → (∀ k, i ≠ .beat k) →
    (∀ a, t.memByte a = s.memByte a) ∧ t.mem = s.mem ∧ t.sink = s.sink ∧ t.sourceTaken = s.sourceTaken
    ∧ t.feed = s.feed ∧ t.hosts = s.hosts ∧ t.params = s.params
    ∧ (i = .complete → t.ports = s.ports ∧ t.periodCount = s.periodCount ∧ t.gen = s.gen ∧ t.session = s.session
        ∧ t.mode = s.mode ∧ t.pendAddr = s.pendAddr ∧ t.irqEnable = s.irqEnable)
    ∧ (i = .notify → t.win = s.win ∧ t.ch = s.ch ∧ t.session = s.session ∧ t.engine = s.engine ∧ t.mode = s.mode
        ∧ t.pendAddr = s.pendAddr ∧ t.pendValid = s.pendValid ∧ t.irqEnable = s.irqEnable ∧ t.faultZl = s.faultZl)
    ∧ ((∃ off w, i = .mmioRead off w) → ∃ x, t = { s with busData := x })
    ∧ ((∃ p, i = .waitTimeout p) → ∃ l, t = { s with ports := l })
    ∧ (i = .strayDone → ∃ c, t = { s with ch := c })

/-- What a beat leaves alone: everything but the channel's count and flags, the streams, and the bytes it stores at
[a0, a0 + k), which with DIRECTION = MEM_TO_SINK are none. Every appended byte goes to the armed sink address CH_DST
(DEDUCED, log entry 7). -/
def Obligations.BeatFrame : Prop :=
  ∀ (k : Nat) (s t : State), exec (.beat k) s = .next t →
    let a0 := s.ch.src.toNat + (s.ch.len.toNat - s.ch.rem.toNat)
    (∃ m o n d c, t = { s with mem := m, sink := s.sink ++ o, sourceTaken := n, draws := d, ch := c }
      ∧ (∀ b ∈ o, b.dst = s.ch.dst) ∧ (s.params.direction = .sourceToMem → o = [])
      ∧ c.src = s.ch.src ∧ c.dst = s.ch.dst ∧ c.len = s.ch.len)
    ∧ (s.params.direction = .memToSink → ∀ a, t.memByte a = s.memByte a)
    ∧ ∀ a, a < a0 ∨ a0 + k ≤ a → t.memByte a = s.memByte a

/-! ### Derived guarantees -/

/-- 42_completion.md R204 and 95_test_vectors.md Q4: from an Idle engine, whatever the feed and the host programs hold that
neither opens nor starts nor resets, no number of steps re-arms the channel, advances the position or raises a notification. -/
def Obligations.StoppedEngineNeverAdvances : Prop :=
  ∀ (n : Nat) (s t : State), s.engine = .idle → (∀ e ∈ s.feed, e.restarts = false) → s.hostsRestart = false →
    core.run n s = .next t →
    t.engine = .idle ∧ t.win.pos = s.win.pos ∧ t.win.chunk = s.win.chunk ∧ t.ch.src = s.ch.src
    ∧ t.ch.len = s.ch.len ∧ t.ch.rem.toNat ≤ s.ch.rem.toNat ∧ (t.ch.active = true → s.ch.active = true)
    ∧ (t.notifyPending = s.notifyPending ∨ t.notifyPending = .none)

/-- 40_tracker.md R133 and R134 (95_test_vectors.md Q1 and Q2): the chunk sequence from the start of the buffer. -/
def Obligations.ChunkSequenceRepeats : Prop :=
  ∀ w : Window, 0 < w.period.toNat → w.period.toNat ≤ w.len.toNat →
    w.fin.toNat = w.start.toNat + w.len.toNat →
    let q := w.len.toNat / w.period.toNat
    let r := w.len.toNat % w.period.toNat
    let cycle := q + (if 0 < r then 1 else 0)
    ∀ n : Nat,
      let v := Window.trackNext^[n] (Window.nextChunk { w with pos := w.start })
      v.pos.toNat = w.start.toNat + w.period.toNat * (n % cycle)
      ∧ v.chunk.toNat = (if n % cycle < q then w.period.toNat else r)
      ∧ v.chunk.toNat ≠ 0

/-- 43_position.md R221 (95_test_vectors.md Q3) and R222: the offset is below WIN_LEN, and when the clamp fires. -/
def Obligations.OffsetStaysInRangeByTheClamp : Prop :=
  ∀ s : State, s.Inv → s.session = .opened →
    (∀ (p : Nat) (q : Port), s.Ready p q →
      ∃ x : Word, exec (.getoff p) s = .next (s.finish p .ok x) ∧ x.toNat < s.win.len.toNat)
    ∧ (s.win.len.toNat ≤ s.rawOffset ↔
      (s.engine = .running ∧ s.params.hasRemainingCounter = true ∧ s.ch.rem = 0#32
        ∧ s.win.pos.toNat + s.win.chunk.toNat = s.win.fin.toNat ∧ s.ch.done = true))

/-- 43_position.md R224: a beat never lowers the offset, and a COMPLETE without a wrap keeps it with the counter and
never lowers it without. -/
def Obligations.OffsetIsMonotoneWithinACycle : Prop :=
  ∀ s t : State, s.Inv → s.engine = .running →
    (∀ k, exec (.beat k) s = .next t → s.rawOffset ≤ t.rawOffset)
    ∧ (s.ch.done = true → s.notifyPending = .none → (s.mode = .period ∨ s.pendValid = false) →
        s.win.pos.toNat + s.win.chunk.toNat < s.win.fin.toNat → exec .complete s = .next t →
        (s.params.hasRemainingCounter = true → t.offset = s.offset) ∧ s.offset ≤ t.offset)

/-- 44_vsync.md R258: in FRAME mode the position is the start of the buffer and a chunk is the whole frame. -/
def Obligations.FrameModeChunksAreFrames : Prop :=
  ∀ s : State, s.Inv → s.session = .opened → s.mode = .frame →
    s.win.period = s.win.len ∧ s.win.pos = s.win.start ∧ (s.engine = .running → s.win.chunk = s.win.len)

/-- 44_vsync.md R246, over one frame: REQADDR, a notification that is still pending, what the frame has yet to move, COMPLETE
and NOTIFY leave the requested address armed and GEN at the token that REQADDR returned. -/
def Obligations.FrameCycleConfirmsTheSwap : Prop :=
  ∀ (s : State) (p : Nat) (q : Port), s.Inv → s.Ready p q → s.session = .opened → s.mode = .frame →
    s.engine = .running → p < 120 → q.arg0.toNat + s.win.len.toNat ≤ 0xFFFFFFFF →
    s.params.AdmitsRange s.ch.next s.ch.rem.toNat →
    let items := [encode (.reqaddr p)] ++ (if s.notifyPending = .none then [] else [encode .notify])
      ++ (if s.ch.active then [encode (.beat s.ch.rem.toNat)] else []) ++ [encode .complete, encode .notify]
    ∃ (t : State) (r : Port), core.run items.length { s with feed := items } = .next t
      ∧ t.ch.src = q.arg0 ∧ t.ch.active = true ∧ t.win.start = q.arg0 ∧ t.pendValid = false
      ∧ t.ports[p]? = some r ∧ r.code = .ok ∧ r.result = t.gen

/-- 70_reset_and_hazards.md R363: quiescence, that a running engine is never quiescent, and the end of a run, which has no host
access left in a host program or among the items ahead, and which lasts until a stray completion; 60_exceptions.md
R306: a state that records a FAULT is never final, and until a RESET no later one is; and R362: in a
weakly fair run every pending notification is delivered, every raised completion signal falls, and every chunk in flight
ends or gives way to another, where all memory is there. The model's choice are: that the end of a run is read off `hosts`
and `feed` and that a host's turn then passes (log entry 25), that the four events leave the state alone where they are not
enabled (log entry 3), and the form of schedules, fairness and final states (log entries 1, 14 and 17). -/
def Obligations.QuiescenceAndFairProgress : Prop :=
  (∀ s : State,
    (s.Quiescent → s.fairEnabled = false)
    ∧ (s.fairEnabled = false → s.Inv → s.Quiescent)
    ∧ (s.Inv → s.engine = .running → s.fairEnabled = true ∧ ¬ s.Quiescent)
    ∧ (s.RunOver → (∀ m, step (s.withEntry (.hostTurn m)) = .next s)
        ∧ ∀ i, (i = .complete ∨ i = .notify ∨ (∃ k, i = .beat k) ∨ ∃ p, i = .waitTimeout p) → exec i s = .next s)
    ∧ ((∃ (m : Nat) (op : HostOp) (ops : List HostOp), s.hosts[m]? = some (op :: ops)) ∨ (∃ p w, Entry.command p w ∈ s.feed)
        ∨ (∃ a b, Entry.hostStore a b ∈ s.feed) ∨ (∃ a, Entry.hostLoad a ∈ s.feed)
        ∨ (∃ e off w, e ∈ s.feed ∧ (decode e = .ok (.mmioRead off w) ∨ ∃ v, decode e = .ok (.mmioWrite off w v))) →
        ¬ s.RunOver)
    ∧ (∀ t : State, s.RunOver → step s = .next t → (∀ e rest, s.feed = e :: rest → decode e ≠ .ok .strayDone) →
        t.RunOver)
    ∧ (s.RunOver → (s.Final ↔ s.Safe))
    ∧ (s.faultZl = true → ¬ s.Final ∧
        ∀ (e : Entry) (t : State), step (s.withEntry e) = .next t → decode e ≠ .ok .reset → ¬ t.Final))
  ∧ (∀ (σ : Nat → Entry) (r : Nat → State) (n : Nat), IsRun σ r → RunEndsAt σ r n →
    (∀ m, n ≤ m → decode (σ m) ≠ .ok .strayDone) → ∀ m, n ≤ m → (r m).RunOver)
  ∧ ∀ (σ : Nat → Entry) (r : Nat → State), IsRun σ r → WeaklyFair σ r → ∀ n : Nat,
    ((r n).notifyPending ≠ .none → ∃ m, n ≤ m ∧ (r m).notifyPending = .none)
    ∧ ((r n).ch.done = true → ∃ m, n ≤ m ∧ (r m).ch.done = false)
    ∧ ((r 0).Inv → (r 0).params.holes = [] → (r n).ch.active = true →
        ∃ m, n ≤ m ∧ ((r m).ch.active = false ∨ (r m).ch.rem.toNat < (r (m + 1)).ch.rem.toNat))

/-- The other end of a beat and of a host memory access (93_implementation_defined.md S6, "stuck"; 20_memory.md R71): at an
address that names no memory it stops with a fault that names the address, the first one for a beat (log entries 11 and
26). -/
def Obligations.AbsentMemoryIsStuck : Prop :=
  ∀ s : State,
    (∀ k j : Nat, s.ch.active = true → 1 ≤ k → k ≤ s.ch.rem.toNat → j < k →
      s.params.AdmitsRange s.ch.next j → s.params.admits (s.ch.next + j) = false →
      exec (.beat k) s = .fault (.noMemory (s.ch.next + j)))
    ∧ ∀ (a : Word) (b : Byte), s.params.admits a.toNat = false →
      hostStore a b s = .fault (.noMemory a.toNat) ∧ hostLoad a s = .fault (.noMemory a.toNat)

/-- 20_memory.md R87 in the form the model gives it (log entries 5 and 26): a host store lands in memory and changes nothing else but the list of raced bytes; exactly a store to an unmoved byte of a chunk armed towards the sink marks the byte, so that what the channel moves from it is a free value;
a host load of a byte the channel has yet to write returns the old byte or the coming one; and a newly armed chunk has met
no host store, for arming clears the marks and no instruction adds one. -/
def Obligations.HostAccessRacesTheChannel : Prop :=
  (∀ (s : State) (a : Word) (b : Byte), s.params.admits a.toNat = true →
    (∃ (m : Memory) (l : List Nat), hostStore a b s = .next { s with mem := m, raced := l }
      ∧ Memory.read? m a.toNat = some b ∧ (∀ x, x ≠ a.toNat → Memory.read? m x = Memory.read? s.mem x)
      ∧ (∀ x, x ∈ l ↔ x ∈ s.raced ∨ (x = a.toNat ∧ s.unmoved a.toNat = true ∧ s.params.direction = .memToSink)))
    ∧ ∃ (d : Nat) (y : Byte), hostLoad a s = .next { s with busData := y.setWidth 32, draws := d }
      ∧ (s.unmoved a.toNat = false ∨ s.params.direction = .memToSink → y = s.memByte a.toNat)
      ∧ (y = s.memByte a.toNat ∨ y = s.comingByte a.toNat))
  ∧ ∀ s : State, s.arm.1.raced = []
    ∧ ∀ (i : Instr) (t : State), exec i s = .next t →
      (∀ x, x ∈ t.raced → x ∈ s.raced)
      ∧ (i = .complete → s.ch.done = true → s.notifyPending = .none → s.engine = .running → t.raced = [])
      ∧ ((∃ p, i.issues = some (p, .start)) → s.engine = .idle → t.engine = .running → t.raced = [])
      ∧ (s.ch.active = false → t.ch.active = true → t.raced = [])

/-- 30_encoding.md R111 and R112, with the program of host master `h` in State.hosts and its turns in the feed (log entries
20 and 25): an OPEN statement writes the four ARG registers and then issues OPEN on them; what each other statement and
each pseudo-instruction expands to; and WAITDONE reads PSTATUS again while bit 31 of it is 1, and goes on after the read that has it 0. -/
def Obligations.AssembledProgramsRunTheirAccesses : Prop :=
  (∀ (s : State) (h p : Nat) (q : Port) (m : Mode) (a len per sink : Word) (ops : List HostOp) (rest : List Entry),
    s.ports[p]? = some q → p < 120 → s.hosts[h]? = some (asmProgram [.openS p m a len per sink] ++ ops) →
    (Stmt.openS p m a len per sink).expand.length = 5
    ∧ core.run 5 { s with feed := List.replicate 5 (.hostTurn h) ++ rest }
      = exec (.openCmd p m)
          { s with
            ports := s.ports.set p { q with arg0 := a, arg1 := len, arg2 := per, arg3 := sink }
            hosts := s.hosts.set h ops
            feed := rest })
  ∧ (∀ (p : Nat) (x y v : Word) (off : BitVec 12),
    let reg : Nat → BitVec 12 := fun k => BitVec.ofNat 12 (0x100 + 0x20 * p + k)
    let accesses : Stmt → List Instr := fun st => st.expand.map HostOp.instr
    accesses (.close p) = [.mmioWrite (reg 0x10) .w32 0x00000002#32]
    ∧ accesses (.start p) = [.mmioWrite (reg 0x10) .w32 0x00000003#32]
    ∧ accesses (.stop p) = [.mmioWrite (reg 0x10) .w32 0x00000004#32]
    ∧ accesses (.getoff p) = [.mmioWrite (reg 0x10) .w32 0x00000005#32]
    ∧ accesses (.reqaddr p x) = [.mmioWrite (reg 0x00) .w32 x, .mmioWrite (reg 0x10) .w32 0x00000006#32]
    ∧ accesses (.waitgen p x y)
      = [.mmioWrite (reg 0x00) .w32 x, .mmioWrite (reg 0x04) .w32 y, .mmioWrite (reg 0x10) .w32 0x00000007#32]
    ∧ accesses (.wr off v) = [.mmioWrite off .w32 v] ∧ accesses (.rd off) = [.mmioRead off .w32]
    ∧ (Stmt.resume p).expand = (Stmt.start p).expand ∧ (Stmt.suspend p).expand = (Stmt.stop p).expand
    ∧ accesses (.result p) = [.mmioRead (reg 0x14) .w32] ∧ accesses (.pstatus p) = [.mmioRead (reg 0x18) .w32]
    ∧ accesses .ackpe = [.mmioWrite 0x00C#12 .w32 0x00000001#32])
  ∧ ∀ (s : State) (h p : Nat) (q : Port) (ops : List HostOp) (rest : List Entry),
    s.ports[p]? = some q → p < 120 → s.hosts[h]? = some (asmProgram [.waitdone p] ++ ops) →
    (q.pstatus.getLsbD 31 = true → ∀ n : Nat,
      core.run n { s with feed := List.replicate n (.hostTurn h) ++ rest }
        = .next { s with feed := rest, busData := if n = 0 then s.busData else q.pstatus })
    ∧ (q.pstatus.getLsbD 31 = false →
      step { s with feed := .hostTurn h :: rest }
        = .next { s with feed := rest, busData := q.pstatus, hosts := s.hosts.set h ops })
end

