-- ==== Sys2Proof/Laws/Encoding.lean ====
section
/-! SUPPORT. The fields of an event record, read back from the record they make. -/

namespace Sys2Proof

@[simp] theorem evLabel_evRecord (a : Word) (o : BitVec 16) (x l : BitVec 8) :
    evLabel (evRecord a o x l) = l := by
  unfold evLabel evRecord
  apply BitVec.eq_of_getLsbD_eq
  intro j hj
  rw [BitVec.getLsbD_extractLsb']
  simp only [hj, decide_true, Bool.true_and, Nat.zero_add]
  rw [BitVec.getLsbD_append]
  simp [hj]

@[simp] theorem evSel_evRecord (a : Word) (o : BitVec 16) (x l : BitVec 8) :
    evSel (evRecord a o x l) = x := by
  unfold evSel evRecord
  apply BitVec.eq_of_getLsbD_eq
  intro j hj
  rw [BitVec.getLsbD_extractLsb', BitVec.getLsbD_append, BitVec.getLsbD_append]
  simp [hj]

@[simp] theorem evOff_evRecord (a : Word) (o : BitVec 16) (x l : BitVec 8) :
    evOff (evRecord a o x l) = o := by
  unfold evOff evRecord
  apply BitVec.eq_of_getLsbD_eq
  intro j hj
  rw [BitVec.getLsbD_extractLsb', BitVec.getLsbD_append, BitVec.getLsbD_append, BitVec.getLsbD_append]
  simp [hj, show ¬ (16 + j - 8 < 8) by omega, show ¬ (16 + j < 8) by omega, show (16 + j - 8 - 8) = j by omega]

@[simp] theorem evArg_evRecord (a : Word) (o : BitVec 16) (x l : BitVec 8) :
    evArg (evRecord a o x l) = a := by
  unfold evArg evRecord
  apply BitVec.eq_of_getLsbD_eq
  intro j hj
  rw [BitVec.getLsbD_extractLsb', BitVec.getLsbD_append, BitVec.getLsbD_append, BitVec.getLsbD_append]
  simp [hj, show ¬ (32 + j - 8 < 8) by omega, show ¬ (32 + j < 8) by omega, show ¬ (32 + j - 8 - 8 < 16) by omega,
    show (32 + j - 8 - 8 - 16) = j by omega]

/-- A record is put together again from its fields. -/
theorem evRecord_fields (r : BitVec 64) : evRecord (evArg r) (evOff r) (evSel r) (evLabel r) = r := by
  unfold evLabel evRecord evSel evOff evArg
  apply BitVec.eq_of_getLsbD_eq
  intro j hj
  rw [BitVec.getLsbD_append, BitVec.getLsbD_append, BitVec.getLsbD_append]
  simp only [BitVec.getLsbD_extractLsb']
  by_cases h1 : j < 8
  · simp [h1]
  · by_cases h2 : j - 8 < 8
    · simp [h1, h2, show 8 + (j - 8) = j by omega]
    · by_cases h3 : j - 8 - 8 < 16
      · simp [h1, h2, h3, show 16 + (j - 8 - 8) = j by omega]
      · simp [h1, h2, h3, show 32 + (j - 8 - 8 - 16) = j by omega]
        omega

end Sys2Proof
end

