-- ==== Sys2Proof/Laws/Memory.lean ====
section
/-! SUPPORT. The laws of memory: read after write, and that every operation keeps the canonical form. -/

namespace Sys2Proof.Machine

@[simp] theorem Memory.read?_write_same (m : Memory) (a : Nat) (v : Byte) :
    Memory.read? (Memory.write m a v) a = some v := by
  induction m with
  | nil => simp [Memory.write, Memory.read?]
  | cons c rest ih =>
    obtain ⟨b, w⟩ := c
    unfold Memory.write
    split
    · simp [Memory.read?]
    · split
      · simp [Memory.read?]
      · rename_i hne
        simp [Memory.read?, Ne.symm hne, ih]

theorem Memory.read?_write_other (m : Memory) {a x : Nat} (v : Byte) (h : x ≠ a) :
    Memory.read? (Memory.write m a v) x = Memory.read? m x := by
  induction m with
  | nil => simp [Memory.write, Memory.read?, Ne.symm h]
  | cons c rest ih =>
    obtain ⟨b, w⟩ := c
    unfold Memory.write
    split
    · simp [Memory.read?, Ne.symm h]
    · split
      · subst_vars
        simp [Memory.read?, Ne.symm h]
      · simp only [Memory.read?, ih]

/-- A write keeps the rising form above any bound that the address meets. -/
theorem Memory.risingFrom_write (m : Memory) {lo a : Nat} (v : Byte) (h : Memory.risingFrom lo m = true) (hlo : lo ≤ a)
    (hhi : a ≤ maxAddr) : Memory.risingFrom lo (Memory.write m a v) = true := by
  induction m generalizing lo with
  | nil => simp [Memory.write, Memory.risingFrom, hlo, hhi]
  | cons c rest ih =>
    obtain ⟨b, w⟩ := c
    simp only [Memory.risingFrom, Bool.and_eq_true, decide_eq_true_eq] at h
    unfold Memory.write
    split
    · simp only [Memory.risingFrom, Bool.and_eq_true, decide_eq_true_eq]
      exact ⟨⟨hlo, hhi⟩, ⟨by omega, h.1.2⟩, h.2⟩
    · split
      · subst_vars
        simp only [Memory.risingFrom, Bool.and_eq_true, decide_eq_true_eq]
        exact ⟨⟨hlo, hhi⟩, h.2⟩
      · simp only [Memory.risingFrom, Bool.and_eq_true, decide_eq_true_eq]
        exact ⟨h.1, ih h.2 (by omega)⟩

/-- Every store keeps the canonical form. -/
theorem Memory.wf_write (m : Memory) {a : Nat} (v : Byte) (h : Memory.wf m = true) (ha : a ≤ maxAddr) :
    Memory.wf (Memory.write m a v) = true := Memory.risingFrom_write m v h (Nat.zero_le _) ha

/-- Reset's memory has the canonical form. -/
theorem reset_memory_wf : Memory.wf State.reset.mem = true := rfl

theorem mem_insertAddr (l : List Nat) (x y : Nat) : y ∈ insertAddr l x ↔ y ∈ l ∨ y = x := by
  induction l with
  | nil => simp [insertAddr]
  | cons b rest ih =>
    unfold insertAddr
    split
    · simp only [List.mem_cons]; tauto
    · split
      · subst_vars; simp only [List.mem_cons]; tauto
      · simp only [List.mem_cons, ih]; tauto

theorem addrsRising_insertAddr (l : List Nat) {lo x : Nat} (h : addrsRising lo l = true) (hlo : lo ≤ x) :
    addrsRising lo (insertAddr l x) = true := by
  induction l generalizing lo with
  | nil => simp [insertAddr, addrsRising, hlo]
  | cons b rest ih =>
    simp only [addrsRising, Bool.and_eq_true, decide_eq_true_eq] at h
    unfold insertAddr
    split
    · simp only [addrsRising, Bool.and_eq_true, decide_eq_true_eq]
      exact ⟨hlo, by omega, h.2⟩
    · split
      · subst_vars
        simp only [addrsRising, Bool.and_eq_true, decide_eq_true_eq]
        exact h
      · simp only [addrsRising, Bool.and_eq_true, decide_eq_true_eq]
        exact ⟨h.1, ih h.2 (by omega)⟩

theorem Params.le_of_admits (c : Params) {a : Nat} (h : c.admits a = true) : a ≤ maxAddr := by
  simp only [Params.admits, Bool.and_eq_true, decide_eq_true_eq] at h
  exact h.1

/-- `firstAbsent` answers none exactly when every address of the range names memory. -/
theorem Params.firstAbsent_eq_none (c : Params) (k a : Nat) :
    c.firstAbsent k a = none ↔ ∀ j, j < k → c.admits (a + j) = true := by
  induction k generalizing a with
  | zero => simp [Params.firstAbsent]
  | succ k ih =>
    unfold Params.firstAbsent
    split
    · rename_i ha
      rw [ih]
      constructor
      · intro h j hj
        cases j with
        | zero => exact ha
        | succ j => have := h j (by omega); rwa [show a + (j + 1) = a + 1 + j by omega]
      · intro h j hj
        have := h (j + 1) (by omega)
        rwa [show a + 1 + j = a + (j + 1) by omega]
    · rename_i ha
      simp only [reduceCtorEq, false_iff, not_forall]
      exact ⟨0, by omega, by simpa using ha⟩

@[simp] theorem State.memByte_memWrite_same (s : State) (a : Nat) (v : Byte) : (s.memWrite a v).memByte a = v := by
  simp [State.memByte, State.memWrite]

theorem State.memByte_memWrite_other (s : State) {a x : Nat} (v : Byte) (h : x ≠ a) :
    (s.memWrite a v).memByte x = s.memByte x := by
  simp [State.memByte, State.memWrite, Memory.read?_write_other _ _ h]

end Sys2Proof.Machine
end

