-- ==== Sys2Proof/Laws/State.lean ====
section
/-! SUPPORT. One lemma per field of State per named update, each true by unfolding, so that no later proof unfolds a record
update. -/

namespace Sys2Proof.Machine

@[simp] theorem State.setWin_params (s : State) (w : Window) : (s.setWin w).params = s.params := rfl
@[simp] theorem State.setWin_session (s : State) (w : Window) : (s.setWin w).session = s.session := rfl
@[simp] theorem State.setWin_engine (s : State) (w : Window) : (s.setWin w).engine = s.engine := rfl
@[simp] theorem State.setWin_mode (s : State) (w : Window) : (s.setWin w).mode = s.mode := rfl
@[simp] theorem State.setWin_win (s : State) (w : Window) : (s.setWin w).win = w := rfl
@[simp] theorem State.setWin_ch (s : State) (w : Window) : (s.setWin w).ch = s.ch := rfl
@[simp] theorem State.setWin_notifyPending (s : State) (w : Window) : (s.setWin w).notifyPending = s.notifyPending := rfl
@[simp] theorem State.setWin_periodCount (s : State) (w : Window) : (s.setWin w).periodCount = s.periodCount := rfl
@[simp] theorem State.setWin_gen (s : State) (w : Window) : (s.setWin w).gen = s.gen := rfl
@[simp] theorem State.setWin_pendAddr (s : State) (w : Window) : (s.setWin w).pendAddr = s.pendAddr := rfl
@[simp] theorem State.setWin_pendValid (s : State) (w : Window) : (s.setWin w).pendValid = s.pendValid := rfl
@[simp] theorem State.setWin_irqStatus (s : State) (w : Window) : (s.setWin w).irqStatus = s.irqStatus := rfl
@[simp] theorem State.setWin_irqEnable (s : State) (w : Window) : (s.setWin w).irqEnable = s.irqEnable := rfl
@[simp] theorem State.setWin_faultZl (s : State) (w : Window) : (s.setWin w).faultZl = s.faultZl := rfl
@[simp] theorem State.setWin_ports (s : State) (w : Window) : (s.setWin w).ports = s.ports := rfl
@[simp] theorem State.setWin_mem (s : State) (w : Window) : (s.setWin w).mem = s.mem := rfl
@[simp] theorem State.setWin_sink (s : State) (w : Window) : (s.setWin w).sink = s.sink := rfl
@[simp] theorem State.setWin_sourceTaken (s : State) (w : Window) : (s.setWin w).sourceTaken = s.sourceTaken := rfl
@[simp] theorem State.setWin_raced (s : State) (w : Window) : (s.setWin w).raced = s.raced := rfl
@[simp] theorem State.setWin_busData (s : State) (w : Window) : (s.setWin w).busData = s.busData := rfl
@[simp] theorem State.setWin_feed (s : State) (w : Window) : (s.setWin w).feed = s.feed := rfl
@[simp] theorem State.setWin_draws (s : State) (w : Window) : (s.setWin w).draws = s.draws := rfl
@[simp] theorem State.setWin_hosts (s : State) (w : Window) : (s.setWin w).hosts = s.hosts := rfl

@[simp] theorem State.setCh_params (s : State) (c : Channel) : (s.setCh c).params = s.params := rfl
@[simp] theorem State.setCh_session (s : State) (c : Channel) : (s.setCh c).session = s.session := rfl
@[simp] theorem State.setCh_engine (s : State) (c : Channel) : (s.setCh c).engine = s.engine := rfl
@[simp] theorem State.setCh_mode (s : State) (c : Channel) : (s.setCh c).mode = s.mode := rfl
@[simp] theorem State.setCh_win (s : State) (c : Channel) : (s.setCh c).win = s.win := rfl
@[simp] theorem State.setCh_ch (s : State) (c : Channel) : (s.setCh c).ch = c := rfl
@[simp] theorem State.setCh_notifyPending (s : State) (c : Channel) : (s.setCh c).notifyPending = s.notifyPending := rfl
@[simp] theorem State.setCh_periodCount (s : State) (c : Channel) : (s.setCh c).periodCount = s.periodCount := rfl
@[simp] theorem State.setCh_gen (s : State) (c : Channel) : (s.setCh c).gen = s.gen := rfl
@[simp] theorem State.setCh_pendAddr (s : State) (c : Channel) : (s.setCh c).pendAddr = s.pendAddr := rfl
@[simp] theorem State.setCh_pendValid (s : State) (c : Channel) : (s.setCh c).pendValid = s.pendValid := rfl
@[simp] theorem State.setCh_irqStatus (s : State) (c : Channel) : (s.setCh c).irqStatus = s.irqStatus := rfl
@[simp] theorem State.setCh_irqEnable (s : State) (c : Channel) : (s.setCh c).irqEnable = s.irqEnable := rfl
@[simp] theorem State.setCh_faultZl (s : State) (c : Channel) : (s.setCh c).faultZl = s.faultZl := rfl
@[simp] theorem State.setCh_ports (s : State) (c : Channel) : (s.setCh c).ports = s.ports := rfl
@[simp] theorem State.setCh_mem (s : State) (c : Channel) : (s.setCh c).mem = s.mem := rfl
@[simp] theorem State.setCh_sink (s : State) (c : Channel) : (s.setCh c).sink = s.sink := rfl
@[simp] theorem State.setCh_sourceTaken (s : State) (c : Channel) : (s.setCh c).sourceTaken = s.sourceTaken := rfl
@[simp] theorem State.setCh_raced (s : State) (c : Channel) : (s.setCh c).raced = s.raced := rfl
@[simp] theorem State.setCh_busData (s : State) (c : Channel) : (s.setCh c).busData = s.busData := rfl
@[simp] theorem State.setCh_feed (s : State) (c : Channel) : (s.setCh c).feed = s.feed := rfl
@[simp] theorem State.setCh_draws (s : State) (c : Channel) : (s.setCh c).draws = s.draws := rfl
@[simp] theorem State.setCh_hosts (s : State) (c : Channel) : (s.setCh c).hosts = s.hosts := rfl

@[simp] theorem State.setEngine_params (s : State) (e : EngineState) : (s.setEngine e).params = s.params := rfl
@[simp] theorem State.setEngine_session (s : State) (e : EngineState) : (s.setEngine e).session = s.session := rfl
@[simp] theorem State.setEngine_engine (s : State) (e : EngineState) : (s.setEngine e).engine = e := rfl
@[simp] theorem State.setEngine_mode (s : State) (e : EngineState) : (s.setEngine e).mode = s.mode := rfl
@[simp] theorem State.setEngine_win (s : State) (e : EngineState) : (s.setEngine e).win = s.win := rfl
@[simp] theorem State.setEngine_ch (s : State) (e : EngineState) : (s.setEngine e).ch = s.ch := rfl
@[simp] theorem State.setEngine_notifyPending (s : State) (e : EngineState) : (s.setEngine e).notifyPending = s.notifyPending := rfl
@[simp] theorem State.setEngine_periodCount (s : State) (e : EngineState) : (s.setEngine e).periodCount = s.periodCount := rfl
@[simp] theorem State.setEngine_gen (s : State) (e : EngineState) : (s.setEngine e).gen = s.gen := rfl
@[simp] theorem State.setEngine_pendAddr (s : State) (e : EngineState) : (s.setEngine e).pendAddr = s.pendAddr := rfl
@[simp] theorem State.setEngine_pendValid (s : State) (e : EngineState) : (s.setEngine e).pendValid = s.pendValid := rfl
@[simp] theorem State.setEngine_irqStatus (s : State) (e : EngineState) : (s.setEngine e).irqStatus = s.irqStatus := rfl
@[simp] theorem State.setEngine_irqEnable (s : State) (e : EngineState) : (s.setEngine e).irqEnable = s.irqEnable := rfl
@[simp] theorem State.setEngine_faultZl (s : State) (e : EngineState) : (s.setEngine e).faultZl = s.faultZl := rfl
@[simp] theorem State.setEngine_ports (s : State) (e : EngineState) : (s.setEngine e).ports = s.ports := rfl
@[simp] theorem State.setEngine_mem (s : State) (e : EngineState) : (s.setEngine e).mem = s.mem := rfl
@[simp] theorem State.setEngine_sink (s : State) (e : EngineState) : (s.setEngine e).sink = s.sink := rfl
@[simp] theorem State.setEngine_sourceTaken (s : State) (e : EngineState) : (s.setEngine e).sourceTaken = s.sourceTaken := rfl
@[simp] theorem State.setEngine_raced (s : State) (e : EngineState) : (s.setEngine e).raced = s.raced := rfl
@[simp] theorem State.setEngine_busData (s : State) (e : EngineState) : (s.setEngine e).busData = s.busData := rfl
@[simp] theorem State.setEngine_feed (s : State) (e : EngineState) : (s.setEngine e).feed = s.feed := rfl
@[simp] theorem State.setEngine_draws (s : State) (e : EngineState) : (s.setEngine e).draws = s.draws := rfl
@[simp] theorem State.setEngine_hosts (s : State) (e : EngineState) : (s.setEngine e).hosts = s.hosts := rfl

@[simp] theorem State.setNotify_params (s : State) (n : NotifyKind) : (s.setNotify n).params = s.params := rfl
@[simp] theorem State.setNotify_session (s : State) (n : NotifyKind) : (s.setNotify n).session = s.session := rfl
@[simp] theorem State.setNotify_engine (s : State) (n : NotifyKind) : (s.setNotify n).engine = s.engine := rfl
@[simp] theorem State.setNotify_mode (s : State) (n : NotifyKind) : (s.setNotify n).mode = s.mode := rfl
@[simp] theorem State.setNotify_win (s : State) (n : NotifyKind) : (s.setNotify n).win = s.win := rfl
@[simp] theorem State.setNotify_ch (s : State) (n : NotifyKind) : (s.setNotify n).ch = s.ch := rfl
@[simp] theorem State.setNotify_notifyPending (s : State) (n : NotifyKind) : (s.setNotify n).notifyPending = n := rfl
@[simp] theorem State.setNotify_periodCount (s : State) (n : NotifyKind) : (s.setNotify n).periodCount = s.periodCount := rfl
@[simp] theorem State.setNotify_gen (s : State) (n : NotifyKind) : (s.setNotify n).gen = s.gen := rfl
@[simp] theorem State.setNotify_pendAddr (s : State) (n : NotifyKind) : (s.setNotify n).pendAddr = s.pendAddr := rfl
@[simp] theorem State.setNotify_pendValid (s : State) (n : NotifyKind) : (s.setNotify n).pendValid = s.pendValid := rfl
@[simp] theorem State.setNotify_irqStatus (s : State) (n : NotifyKind) : (s.setNotify n).irqStatus = s.irqStatus := rfl
@[simp] theorem State.setNotify_irqEnable (s : State) (n : NotifyKind) : (s.setNotify n).irqEnable = s.irqEnable := rfl
@[simp] theorem State.setNotify_faultZl (s : State) (n : NotifyKind) : (s.setNotify n).faultZl = s.faultZl := rfl
@[simp] theorem State.setNotify_ports (s : State) (n : NotifyKind) : (s.setNotify n).ports = s.ports := rfl
@[simp] theorem State.setNotify_mem (s : State) (n : NotifyKind) : (s.setNotify n).mem = s.mem := rfl
@[simp] theorem State.setNotify_sink (s : State) (n : NotifyKind) : (s.setNotify n).sink = s.sink := rfl
@[simp] theorem State.setNotify_sourceTaken (s : State) (n : NotifyKind) : (s.setNotify n).sourceTaken = s.sourceTaken := rfl
@[simp] theorem State.setNotify_raced (s : State) (n : NotifyKind) : (s.setNotify n).raced = s.raced := rfl
@[simp] theorem State.setNotify_busData (s : State) (n : NotifyKind) : (s.setNotify n).busData = s.busData := rfl
@[simp] theorem State.setNotify_feed (s : State) (n : NotifyKind) : (s.setNotify n).feed = s.feed := rfl
@[simp] theorem State.setNotify_draws (s : State) (n : NotifyKind) : (s.setNotify n).draws = s.draws := rfl
@[simp] theorem State.setNotify_hosts (s : State) (n : NotifyKind) : (s.setNotify n).hosts = s.hosts := rfl

@[simp] theorem State.updPort_params (s : State) (p : Nat) (f : Port → Port) : (s.updPort p f).params = s.params := rfl
@[simp] theorem State.updPort_session (s : State) (p : Nat) (f : Port → Port) : (s.updPort p f).session = s.session := rfl
@[simp] theorem State.updPort_engine (s : State) (p : Nat) (f : Port → Port) : (s.updPort p f).engine = s.engine := rfl
@[simp] theorem State.updPort_mode (s : State) (p : Nat) (f : Port → Port) : (s.updPort p f).mode = s.mode := rfl
@[simp] theorem State.updPort_win (s : State) (p : Nat) (f : Port → Port) : (s.updPort p f).win = s.win := rfl
@[simp] theorem State.updPort_ch (s : State) (p : Nat) (f : Port → Port) : (s.updPort p f).ch = s.ch := rfl
@[simp] theorem State.updPort_notifyPending (s : State) (p : Nat) (f : Port → Port) : (s.updPort p f).notifyPending = s.notifyPending := rfl
@[simp] theorem State.updPort_periodCount (s : State) (p : Nat) (f : Port → Port) : (s.updPort p f).periodCount = s.periodCount := rfl
@[simp] theorem State.updPort_gen (s : State) (p : Nat) (f : Port → Port) : (s.updPort p f).gen = s.gen := rfl
@[simp] theorem State.updPort_pendAddr (s : State) (p : Nat) (f : Port → Port) : (s.updPort p f).pendAddr = s.pendAddr := rfl
@[simp] theorem State.updPort_pendValid (s : State) (p : Nat) (f : Port → Port) : (s.updPort p f).pendValid = s.pendValid := rfl
@[simp] theorem State.updPort_irqStatus (s : State) (p : Nat) (f : Port → Port) : (s.updPort p f).irqStatus = s.irqStatus := rfl
@[simp] theorem State.updPort_irqEnable (s : State) (p : Nat) (f : Port → Port) : (s.updPort p f).irqEnable = s.irqEnable := rfl
@[simp] theorem State.updPort_faultZl (s : State) (p : Nat) (f : Port → Port) : (s.updPort p f).faultZl = s.faultZl := rfl
@[simp] theorem State.updPort_ports (s : State) (p : Nat) (f : Port → Port) : (s.updPort p f).ports = s.ports.modify p f := rfl
@[simp] theorem State.updPort_mem (s : State) (p : Nat) (f : Port → Port) : (s.updPort p f).mem = s.mem := rfl
@[simp] theorem State.updPort_sink (s : State) (p : Nat) (f : Port → Port) : (s.updPort p f).sink = s.sink := rfl
@[simp] theorem State.updPort_sourceTaken (s : State) (p : Nat) (f : Port → Port) : (s.updPort p f).sourceTaken = s.sourceTaken := rfl
@[simp] theorem State.updPort_raced (s : State) (p : Nat) (f : Port → Port) : (s.updPort p f).raced = s.raced := rfl
@[simp] theorem State.updPort_busData (s : State) (p : Nat) (f : Port → Port) : (s.updPort p f).busData = s.busData := rfl
@[simp] theorem State.updPort_feed (s : State) (p : Nat) (f : Port → Port) : (s.updPort p f).feed = s.feed := rfl
@[simp] theorem State.updPort_draws (s : State) (p : Nat) (f : Port → Port) : (s.updPort p f).draws = s.draws := rfl
@[simp] theorem State.updPort_hosts (s : State) (p : Nat) (f : Port → Port) : (s.updPort p f).hosts = s.hosts := rfl

@[simp] theorem State.finish_params (s : State) (p : Nat) (c : Code) (r : Word) : (s.finish p c r).params = s.params := rfl
@[simp] theorem State.finish_session (s : State) (p : Nat) (c : Code) (r : Word) : (s.finish p c r).session = s.session := rfl
@[simp] theorem State.finish_engine (s : State) (p : Nat) (c : Code) (r : Word) : (s.finish p c r).engine = s.engine := rfl
@[simp] theorem State.finish_mode (s : State) (p : Nat) (c : Code) (r : Word) : (s.finish p c r).mode = s.mode := rfl
@[simp] theorem State.finish_win (s : State) (p : Nat) (c : Code) (r : Word) : (s.finish p c r).win = s.win := rfl
@[simp] theorem State.finish_ch (s : State) (p : Nat) (c : Code) (r : Word) : (s.finish p c r).ch = s.ch := rfl
@[simp] theorem State.finish_notifyPending (s : State) (p : Nat) (c : Code) (r : Word) : (s.finish p c r).notifyPending = s.notifyPending := rfl
@[simp] theorem State.finish_periodCount (s : State) (p : Nat) (c : Code) (r : Word) : (s.finish p c r).periodCount = s.periodCount := rfl
@[simp] theorem State.finish_gen (s : State) (p : Nat) (c : Code) (r : Word) : (s.finish p c r).gen = s.gen := rfl
@[simp] theorem State.finish_pendAddr (s : State) (p : Nat) (c : Code) (r : Word) : (s.finish p c r).pendAddr = s.pendAddr := rfl
@[simp] theorem State.finish_pendValid (s : State) (p : Nat) (c : Code) (r : Word) : (s.finish p c r).pendValid = s.pendValid := rfl
@[simp] theorem State.finish_irqStatus (s : State) (p : Nat) (c : Code) (r : Word) : (s.finish p c r).irqStatus = s.irqStatus := rfl
@[simp] theorem State.finish_irqEnable (s : State) (p : Nat) (c : Code) (r : Word) : (s.finish p c r).irqEnable = s.irqEnable := rfl
@[simp] theorem State.finish_faultZl (s : State) (p : Nat) (c : Code) (r : Word) : (s.finish p c r).faultZl = s.faultZl := rfl
@[simp] theorem State.finish_ports (s : State) (p : Nat) (c : Code) (r : Word) : (s.finish p c r).ports = s.ports.modify p (Port.finish c r) := rfl
@[simp] theorem State.finish_mem (s : State) (p : Nat) (c : Code) (r : Word) : (s.finish p c r).mem = s.mem := rfl
@[simp] theorem State.finish_sink (s : State) (p : Nat) (c : Code) (r : Word) : (s.finish p c r).sink = s.sink := rfl
@[simp] theorem State.finish_sourceTaken (s : State) (p : Nat) (c : Code) (r : Word) : (s.finish p c r).sourceTaken = s.sourceTaken := rfl
@[simp] theorem State.finish_raced (s : State) (p : Nat) (c : Code) (r : Word) : (s.finish p c r).raced = s.raced := rfl
@[simp] theorem State.finish_busData (s : State) (p : Nat) (c : Code) (r : Word) : (s.finish p c r).busData = s.busData := rfl
@[simp] theorem State.finish_feed (s : State) (p : Nat) (c : Code) (r : Word) : (s.finish p c r).feed = s.feed := rfl
@[simp] theorem State.finish_draws (s : State) (p : Nat) (c : Code) (r : Word) : (s.finish p c r).draws = s.draws := rfl
@[simp] theorem State.finish_hosts (s : State) (p : Nat) (c : Code) (r : Word) : (s.finish p c r).hosts = s.hosts := rfl

@[simp] theorem State.applySwap_params (s : State) : s.applySwap.params = s.params := rfl
@[simp] theorem State.applySwap_session (s : State) : s.applySwap.session = s.session := rfl
@[simp] theorem State.applySwap_engine (s : State) : s.applySwap.engine = s.engine := rfl
@[simp] theorem State.applySwap_mode (s : State) : s.applySwap.mode = s.mode := rfl
@[simp] theorem State.applySwap_win (s : State) : s.applySwap.win = s.win.swapTo s.pendAddr := rfl
@[simp] theorem State.applySwap_ch (s : State) : s.applySwap.ch = s.ch := rfl
@[simp] theorem State.applySwap_notifyPending (s : State) : s.applySwap.notifyPending = s.notifyPending := rfl
@[simp] theorem State.applySwap_periodCount (s : State) : s.applySwap.periodCount = s.periodCount := rfl
@[simp] theorem State.applySwap_gen (s : State) : s.applySwap.gen = s.gen := rfl
@[simp] theorem State.applySwap_pendAddr (s : State) : s.applySwap.pendAddr = s.pendAddr := rfl
@[simp] theorem State.applySwap_pendValid (s : State) : s.applySwap.pendValid = false := rfl
@[simp] theorem State.applySwap_irqStatus (s : State) : s.applySwap.irqStatus = s.irqStatus := rfl
@[simp] theorem State.applySwap_irqEnable (s : State) : s.applySwap.irqEnable = s.irqEnable := rfl
@[simp] theorem State.applySwap_faultZl (s : State) : s.applySwap.faultZl = s.faultZl := rfl
@[simp] theorem State.applySwap_ports (s : State) : s.applySwap.ports = s.ports := rfl
@[simp] theorem State.applySwap_mem (s : State) : s.applySwap.mem = s.mem := rfl
@[simp] theorem State.applySwap_sink (s : State) : s.applySwap.sink = s.sink := rfl
@[simp] theorem State.applySwap_sourceTaken (s : State) : s.applySwap.sourceTaken = s.sourceTaken := rfl
@[simp] theorem State.applySwap_raced (s : State) : s.applySwap.raced = s.raced := rfl
@[simp] theorem State.applySwap_busData (s : State) : s.applySwap.busData = s.busData := rfl
@[simp] theorem State.applySwap_feed (s : State) : s.applySwap.feed = s.feed := rfl
@[simp] theorem State.applySwap_draws (s : State) : s.applySwap.draws = s.draws := rfl
@[simp] theorem State.applySwap_hosts (s : State) : s.applySwap.hosts = s.hosts := rfl

@[simp] theorem State.raiseZeroLength_params (s : State) : s.raiseZeroLength.params = s.params := rfl
@[simp] theorem State.raiseZeroLength_session (s : State) : s.raiseZeroLength.session = s.session := rfl
@[simp] theorem State.raiseZeroLength_engine (s : State) : s.raiseZeroLength.engine = s.engine := rfl
@[simp] theorem State.raiseZeroLength_mode (s : State) : s.raiseZeroLength.mode = s.mode := rfl
@[simp] theorem State.raiseZeroLength_win (s : State) : s.raiseZeroLength.win = s.win := rfl
@[simp] theorem State.raiseZeroLength_ch (s : State) : s.raiseZeroLength.ch = s.ch := rfl
@[simp] theorem State.raiseZeroLength_notifyPending (s : State) : s.raiseZeroLength.notifyPending = s.notifyPending := rfl
@[simp] theorem State.raiseZeroLength_periodCount (s : State) : s.raiseZeroLength.periodCount = s.periodCount := rfl
@[simp] theorem State.raiseZeroLength_gen (s : State) : s.raiseZeroLength.gen = s.gen := rfl
@[simp] theorem State.raiseZeroLength_pendAddr (s : State) : s.raiseZeroLength.pendAddr = s.pendAddr := rfl
@[simp] theorem State.raiseZeroLength_pendValid (s : State) : s.raiseZeroLength.pendValid = s.pendValid := rfl
@[simp] theorem State.raiseZeroLength_irqStatus (s : State) : s.raiseZeroLength.irqStatus = s.irqStatus ||| 0b10#2 := rfl
@[simp] theorem State.raiseZeroLength_irqEnable (s : State) : s.raiseZeroLength.irqEnable = s.irqEnable := rfl
@[simp] theorem State.raiseZeroLength_faultZl (s : State) : s.raiseZeroLength.faultZl = true := rfl
@[simp] theorem State.raiseZeroLength_ports (s : State) : s.raiseZeroLength.ports = s.ports := rfl
@[simp] theorem State.raiseZeroLength_mem (s : State) : s.raiseZeroLength.mem = s.mem := rfl
@[simp] theorem State.raiseZeroLength_sink (s : State) : s.raiseZeroLength.sink = s.sink := rfl
@[simp] theorem State.raiseZeroLength_sourceTaken (s : State) : s.raiseZeroLength.sourceTaken = s.sourceTaken := rfl
@[simp] theorem State.raiseZeroLength_raced (s : State) : s.raiseZeroLength.raced = s.raced := rfl
@[simp] theorem State.raiseZeroLength_busData (s : State) : s.raiseZeroLength.busData = s.busData := rfl
@[simp] theorem State.raiseZeroLength_feed (s : State) : s.raiseZeroLength.feed = s.feed := rfl
@[simp] theorem State.raiseZeroLength_draws (s : State) : s.raiseZeroLength.draws = s.draws := rfl
@[simp] theorem State.raiseZeroLength_hosts (s : State) : s.raiseZeroLength.hosts = s.hosts := rfl

@[simp] theorem State.memWrite_params (s : State) (a : Nat) (v : Byte) : (s.memWrite a v).params = s.params := rfl
@[simp] theorem State.memWrite_session (s : State) (a : Nat) (v : Byte) : (s.memWrite a v).session = s.session := rfl
@[simp] theorem State.memWrite_engine (s : State) (a : Nat) (v : Byte) : (s.memWrite a v).engine = s.engine := rfl
@[simp] theorem State.memWrite_mode (s : State) (a : Nat) (v : Byte) : (s.memWrite a v).mode = s.mode := rfl
@[simp] theorem State.memWrite_win (s : State) (a : Nat) (v : Byte) : (s.memWrite a v).win = s.win := rfl
@[simp] theorem State.memWrite_ch (s : State) (a : Nat) (v : Byte) : (s.memWrite a v).ch = s.ch := rfl
@[simp] theorem State.memWrite_notifyPending (s : State) (a : Nat) (v : Byte) : (s.memWrite a v).notifyPending = s.notifyPending := rfl
@[simp] theorem State.memWrite_periodCount (s : State) (a : Nat) (v : Byte) : (s.memWrite a v).periodCount = s.periodCount := rfl
@[simp] theorem State.memWrite_gen (s : State) (a : Nat) (v : Byte) : (s.memWrite a v).gen = s.gen := rfl
@[simp] theorem State.memWrite_pendAddr (s : State) (a : Nat) (v : Byte) : (s.memWrite a v).pendAddr = s.pendAddr := rfl
@[simp] theorem State.memWrite_pendValid (s : State) (a : Nat) (v : Byte) : (s.memWrite a v).pendValid = s.pendValid := rfl
@[simp] theorem State.memWrite_irqStatus (s : State) (a : Nat) (v : Byte) : (s.memWrite a v).irqStatus = s.irqStatus := rfl
@[simp] theorem State.memWrite_irqEnable (s : State) (a : Nat) (v : Byte) : (s.memWrite a v).irqEnable = s.irqEnable := rfl
@[simp] theorem State.memWrite_faultZl (s : State) (a : Nat) (v : Byte) : (s.memWrite a v).faultZl = s.faultZl := rfl
@[simp] theorem State.memWrite_ports (s : State) (a : Nat) (v : Byte) : (s.memWrite a v).ports = s.ports := rfl
@[simp] theorem State.memWrite_mem (s : State) (a : Nat) (v : Byte) : (s.memWrite a v).mem = Memory.write s.mem a v := rfl
@[simp] theorem State.memWrite_sink (s : State) (a : Nat) (v : Byte) : (s.memWrite a v).sink = s.sink := rfl
@[simp] theorem State.memWrite_sourceTaken (s : State) (a : Nat) (v : Byte) : (s.memWrite a v).sourceTaken = s.sourceTaken := rfl
@[simp] theorem State.memWrite_raced (s : State) (a : Nat) (v : Byte) : (s.memWrite a v).raced = s.raced := rfl
@[simp] theorem State.memWrite_busData (s : State) (a : Nat) (v : Byte) : (s.memWrite a v).busData = s.busData := rfl
@[simp] theorem State.memWrite_feed (s : State) (a : Nat) (v : Byte) : (s.memWrite a v).feed = s.feed := rfl
@[simp] theorem State.memWrite_draws (s : State) (a : Nat) (v : Byte) : (s.memWrite a v).draws = s.draws := rfl
@[simp] theorem State.memWrite_hosts (s : State) (a : Nat) (v : Byte) : (s.memWrite a v).hosts = s.hosts := rfl

@[simp] theorem State.sinkWrite_params (s : State) (b : Byte) : (s.sinkWrite b).params = s.params := rfl
@[simp] theorem State.sinkWrite_session (s : State) (b : Byte) : (s.sinkWrite b).session = s.session := rfl
@[simp] theorem State.sinkWrite_engine (s : State) (b : Byte) : (s.sinkWrite b).engine = s.engine := rfl
@[simp] theorem State.sinkWrite_mode (s : State) (b : Byte) : (s.sinkWrite b).mode = s.mode := rfl
@[simp] theorem State.sinkWrite_win (s : State) (b : Byte) : (s.sinkWrite b).win = s.win := rfl
@[simp] theorem State.sinkWrite_ch (s : State) (b : Byte) : (s.sinkWrite b).ch = s.ch := rfl
@[simp] theorem State.sinkWrite_notifyPending (s : State) (b : Byte) : (s.sinkWrite b).notifyPending = s.notifyPending := rfl
@[simp] theorem State.sinkWrite_periodCount (s : State) (b : Byte) : (s.sinkWrite b).periodCount = s.periodCount := rfl
@[simp] theorem State.sinkWrite_gen (s : State) (b : Byte) : (s.sinkWrite b).gen = s.gen := rfl
@[simp] theorem State.sinkWrite_pendAddr (s : State) (b : Byte) : (s.sinkWrite b).pendAddr = s.pendAddr := rfl
@[simp] theorem State.sinkWrite_pendValid (s : State) (b : Byte) : (s.sinkWrite b).pendValid = s.pendValid := rfl
@[simp] theorem State.sinkWrite_irqStatus (s : State) (b : Byte) : (s.sinkWrite b).irqStatus = s.irqStatus := rfl
@[simp] theorem State.sinkWrite_irqEnable (s : State) (b : Byte) : (s.sinkWrite b).irqEnable = s.irqEnable := rfl
@[simp] theorem State.sinkWrite_faultZl (s : State) (b : Byte) : (s.sinkWrite b).faultZl = s.faultZl := rfl
@[simp] theorem State.sinkWrite_ports (s : State) (b : Byte) : (s.sinkWrite b).ports = s.ports := rfl
@[simp] theorem State.sinkWrite_mem (s : State) (b : Byte) : (s.sinkWrite b).mem = s.mem := rfl
@[simp] theorem State.sinkWrite_sink (s : State) (b : Byte) : (s.sinkWrite b).sink = s.sink ++ [⟨s.ch.dst, b⟩] := rfl
@[simp] theorem State.sinkWrite_sourceTaken (s : State) (b : Byte) : (s.sinkWrite b).sourceTaken = s.sourceTaken := rfl
@[simp] theorem State.sinkWrite_raced (s : State) (b : Byte) : (s.sinkWrite b).raced = s.raced := rfl
@[simp] theorem State.sinkWrite_busData (s : State) (b : Byte) : (s.sinkWrite b).busData = s.busData := rfl
@[simp] theorem State.sinkWrite_feed (s : State) (b : Byte) : (s.sinkWrite b).feed = s.feed := rfl
@[simp] theorem State.sinkWrite_draws (s : State) (b : Byte) : (s.sinkWrite b).draws = s.draws := rfl
@[simp] theorem State.sinkWrite_hosts (s : State) (b : Byte) : (s.sinkWrite b).hosts = s.hosts := rfl

@[simp] theorem State.afterSource_params (s : State) : s.afterSource.params = s.params := rfl
@[simp] theorem State.afterSource_session (s : State) : s.afterSource.session = s.session := rfl
@[simp] theorem State.afterSource_engine (s : State) : s.afterSource.engine = s.engine := rfl
@[simp] theorem State.afterSource_mode (s : State) : s.afterSource.mode = s.mode := rfl
@[simp] theorem State.afterSource_win (s : State) : s.afterSource.win = s.win := rfl
@[simp] theorem State.afterSource_ch (s : State) : s.afterSource.ch = s.ch := rfl
@[simp] theorem State.afterSource_notifyPending (s : State) : s.afterSource.notifyPending = s.notifyPending := rfl
@[simp] theorem State.afterSource_periodCount (s : State) : s.afterSource.periodCount = s.periodCount := rfl
@[simp] theorem State.afterSource_gen (s : State) : s.afterSource.gen = s.gen := rfl
@[simp] theorem State.afterSource_pendAddr (s : State) : s.afterSource.pendAddr = s.pendAddr := rfl
@[simp] theorem State.afterSource_pendValid (s : State) : s.afterSource.pendValid = s.pendValid := rfl
@[simp] theorem State.afterSource_irqStatus (s : State) : s.afterSource.irqStatus = s.irqStatus := rfl
@[simp] theorem State.afterSource_irqEnable (s : State) : s.afterSource.irqEnable = s.irqEnable := rfl
@[simp] theorem State.afterSource_faultZl (s : State) : s.afterSource.faultZl = s.faultZl := rfl
@[simp] theorem State.afterSource_ports (s : State) : s.afterSource.ports = s.ports := rfl
@[simp] theorem State.afterSource_mem (s : State) : s.afterSource.mem = s.mem := rfl
@[simp] theorem State.afterSource_sink (s : State) : s.afterSource.sink = s.sink := rfl
@[simp] theorem State.afterSource_sourceTaken (s : State) : s.afterSource.sourceTaken = s.sourceTaken + 1 := rfl
@[simp] theorem State.afterSource_raced (s : State) : s.afterSource.raced = s.raced := rfl
@[simp] theorem State.afterSource_busData (s : State) : s.afterSource.busData = s.busData := rfl
@[simp] theorem State.afterSource_feed (s : State) : s.afterSource.feed = s.feed := rfl
@[simp] theorem State.afterSource_draws (s : State) : s.afterSource.draws = s.draws := rfl
@[simp] theorem State.afterSource_hosts (s : State) : s.afterSource.hosts = s.hosts := rfl

end Sys2Proof.Machine
end

