-- ==== Sys2Proof/Laws/Ops.lean ====
section
/-! SUPPORT. One lemma per shared operation that says once everything it can do: ports, the tracker, arm, the channel's
moves, and the command wrapper. -/

namespace Sys2Proof.Machine

/-! ### Words -/

/-- A sum of words is their exact sum where that sum has an address. -/
theorem word_add_toNat (a b : Word) (h : a.toNat + b.toNat ≤ maxAddr) :
    (word (a.toNat + b.toNat)).toNat = a.toNat + b.toNat := by
  simp only [word, BitVec.toNat_ofNat]
  unfold maxAddr at h
  omega

theorem word_add (a b : Word) : word (a.toNat + b.toNat) = a + b := by
  apply BitVec.eq_of_toNat_eq
  simp [word]

theorem Session.eq_opened {x : Session} (h : x ≠ .closed) : x = .opened := by
  cases x
  · exact absurd rfl h
  · rfl

theorem EngineState.eq_idle {x : EngineState} (h : x ≠ .running) : x = .idle := by
  cases x
  · rfl
  · exact absurd rfl h

theorem Mode.eq_frame {x : Mode} (h : x ≠ .period) : x = .frame := by
  cases x
  · exact absurd rfl h
  · rfl

/-! ### Ports -/

theorem State.updPort_getElem? (s : State) (p : Nat) (f : Port → Port) (j : Nat) :
    (s.updPort p f).ports[j]? = if p = j then (s.ports[j]?).map f else s.ports[j]? := by
  simp only [State.updPort_ports, List.getElem?_modify]
  split <;> simp [*]

@[simp] theorem State.updPort_ports_length (s : State) (p : Nat) (f : Port → Port) :
    (s.updPort p f).ports.length = s.ports.length := by simp

@[simp] theorem State.finish_ports_length (s : State) (p : Nat) (c : Code) (r : Word) :
    (s.finish p c r).ports.length = s.ports.length := by simp

/-- A command on a port that can take it runs its rule. -/
theorem State.onPort_ready {s : State} {p : Nat} {q : Port} (f : Port → State → State) (h : s.ports[p]? = some q)
    (hb : q.busy = false) : s.onPort p f = f q s := by
  simp [State.onPort, h, hb]

/-- A command on any other port slot is dropped. -/
theorem State.onPort_dropped {s : State} {p : Nat} (f : Port → State → State)
    (h : ∀ q, s.ports[p]? = some q → q.busy = true) : s.onPort p f = s := by
  unfold State.onPort
  split
  · rfl
  · rename_i q hq
    simp [h q hq]

/-- Everything the command wrapper can do. -/
theorem State.onPort_cases (s : State) (p : Nat) (f : Port → State → State) :
    s.onPort p f = s ∨ ∃ q, s.ports[p]? = some q ∧ q.busy = false ∧ s.onPort p f = f q s := by
  unfold State.onPort
  split
  · exact .inl rfl
  · rename_i q hq
    cases hb : q.busy
    · exact .inr ⟨q, hq, hb, rfl⟩
    · exact .inl rfl

/-! ### The tracker -/

@[simp] theorem Window.nextChunk_chunk_toNat (w : Window) :
    w.nextChunk.chunk.toNat = min w.period.toNat (w.fin.toNat - w.pos.toNat) := by
  simp only [Window.nextChunk, word, BitVec.toNat_ofNat]
  have := w.period.isLt
  omega

@[simp] theorem Window.nextChunk_start (w : Window) : w.nextChunk.start = w.start := rfl
@[simp] theorem Window.nextChunk_fin (w : Window) : w.nextChunk.fin = w.fin := rfl
@[simp] theorem Window.nextChunk_len (w : Window) : w.nextChunk.len = w.len := rfl
@[simp] theorem Window.nextChunk_period (w : Window) : w.nextChunk.period = w.period := rfl
@[simp] theorem Window.nextChunk_sink (w : Window) : w.nextChunk.sink = w.sink := rfl
@[simp] theorem Window.nextChunk_pos (w : Window) : w.nextChunk.pos = w.pos := rfl

/-- `advance` moves the position and nothing else. -/
theorem Window.advance_eq (w : Window) :
    w.advance = { w with pos := if w.fin.toNat ≤ w.pos.toNat then w.start else w.pos } := by
  unfold Window.advance
  split <;> rfl

/-- `trackNext` in closed form. -/
theorem Window.trackNext_eq (w : Window) :
    w.trackNext = Window.nextChunk
      { w with pos := if w.fin.toNat ≤ (w.pos + w.chunk).toNat then w.start else w.pos + w.chunk } := by
  simp only [Window.trackNext, Window.advance_eq, word_add]

@[simp] theorem Window.trackNext_start (w : Window) : w.trackNext.start = w.start := by rw [Window.trackNext_eq]; rfl
@[simp] theorem Window.trackNext_fin (w : Window) : w.trackNext.fin = w.fin := by rw [Window.trackNext_eq]; rfl
@[simp] theorem Window.trackNext_len (w : Window) : w.trackNext.len = w.len := by rw [Window.trackNext_eq]; rfl
@[simp] theorem Window.trackNext_period (w : Window) : w.trackNext.period = w.period := by
  rw [Window.trackNext_eq]; rfl
@[simp] theorem Window.trackNext_sink (w : Window) : w.trackNext.sink = w.sink := by rw [Window.trackNext_eq]; rfl

/-- `swapTo` in closed form. -/
theorem Window.swapTo_eq (w : Window) (a : Word) : w.swapTo a = { w with start := a, fin := a + w.len, pos := a } := by
  simp only [Window.swapTo, word_add]

/-- The window of an accepted OPEN in closed form. -/
theorem Window.opened_eq (q : Port) : Window.opened q
    = { start := q.arg0, fin := q.arg0 + q.arg1, len := q.arg1, period := q.arg2, sink := q.arg3, pos := q.arg0,
        chunk := 0#32 } := by
  simp only [Window.opened, word_add]

@[simp] theorem Window.swapTo_len (w : Window) (a : Word) : (w.swapTo a).len = w.len := rfl
@[simp] theorem Window.swapTo_period (w : Window) (a : Word) : (w.swapTo a).period = w.period := rfl
@[simp] theorem Window.swapTo_sink (w : Window) (a : Word) : (w.swapTo a).sink = w.sink := rfl
@[simp] theorem Window.swapTo_start (w : Window) (a : Word) : (w.swapTo a).start = a := rfl
@[simp] theorem Window.swapTo_pos (w : Window) (a : Word) : (w.swapTo a).pos = a := rfl

/-- A window that an open session keeps (10_state.md R53, R54; 40_tracker.md R132). -/
structure Window.Good (w : Window) : Prop where
  periodPos : 0 < w.period.toNat
  periodLe  : w.period.toNat ≤ w.len.toNat
  finEq     : w.fin.toNat = w.start.toNat + w.len.toNat
  finLe     : w.start.toNat + w.len.toNat ≤ maxAddr
  posGe     : w.start.toNat ≤ w.pos.toNat
  posLt     : w.pos.toNat < w.fin.toNat
  aligned   : (w.pos.toNat - w.start.toNat) % w.period.toNat = 0

/-- The chunk of a good window that `nextChunk` has just computed (10_state.md R55). -/
def Window.Chunked (w : Window) : Prop := w.chunk.toNat = min w.period.toNat (w.fin.toNat - w.pos.toNat)

theorem Window.nextChunk_chunked (w : Window) : w.nextChunk.Chunked := by
  simp [Window.Chunked]

/-- 40_tracker.md R134: a good window's chunk is never empty. -/
theorem Window.Good.chunk_ne_zero {w : Window} (h : w.Good) (hc : w.Chunked) : w.chunk ≠ 0#32 := by
  intro h0
  have := h.periodPos
  have := h.posLt
  unfold Window.Chunked at hc
  rw [h0] at hc
  simp only [BitVec.toNat_ofNat] at hc
  omega

theorem Window.Good.swapTo {w : Window} {a : Word} (h : w.Good) (ha : a.toNat + w.len.toNat ≤ maxAddr) :
    (w.swapTo a).Good := by
  have hf := word_add_toNat a w.len ha
  have := h.periodPos
  have := h.periodLe
  exact ⟨h.periodPos, h.periodLe, hf, ha, Nat.le_refl _, by simp only [Window.swapTo, hf]; omega, by simp⟩

theorem Window.Good.restart {w : Window} (h : w.Good) : Window.Good { w with pos := w.start } := by
  have h1 := h.periodPos
  have h2 := h.periodLe
  have h3 := h.finEq
  exact ⟨h1, h2, h3, h.finLe, Nat.le_refl _, by simp only; omega, by simp⟩

/-- Whether a window is good does not depend on its chunk. -/
theorem Window.Good.nextChunk {w : Window} (h : w.Good) : w.nextChunk.Good :=
  ⟨h.periodPos, h.periodLe, h.finEq, h.finLe, h.posGe, h.posLt, h.aligned⟩

theorem Window.Good.trackNext {w : Window} (h : w.Good) (hc : w.Chunked) : w.trackNext.Good := by
  have h1 := h.periodPos
  have h2 := h.periodLe
  have h3 := h.finEq
  have h4 := h.finLe
  have h5 := h.posGe
  have h6 := h.posLt
  have h7 := h.aligned
  unfold Window.Chunked at hc
  have hsum : (w.pos + w.chunk).toNat = w.pos.toNat + w.chunk.toNat := by
    rw [← word_add, word_add_toNat _ _ (by omega)]
  rw [Window.trackNext_eq]
  by_cases hw : w.fin.toNat ≤ (w.pos + w.chunk).toNat
  · simp only [if_pos hw]
    exact h.restart.nextChunk
  · simp only [if_neg hw]
    rw [hsum] at hw
    have hp : w.chunk.toNat = w.period.toNat := by omega
    refine ⟨h1, h2, h3, h4, ?_, ?_, ?_⟩
    · simp only [Window.nextChunk_start, Window.nextChunk_pos, hsum]; omega
    · simp only [Window.nextChunk_fin, Window.nextChunk_pos, hsum]; omega
    · simp only [Window.nextChunk_start, Window.nextChunk_pos, Window.nextChunk_period, hsum, hp]
      rw [show w.pos.toNat + w.period.toNat - w.start.toNat = w.pos.toNat - w.start.toNat + w.period.toNat by omega]
      simp [h7]

theorem Window.trackNext_chunked (w : Window) : w.trackNext.Chunked := by
  rw [Window.trackNext_eq]
  exact Window.nextChunk_chunked _

/-! ### arm -/

/-- `arm` on a nonempty chunk. -/
theorem State.arm_ok {s : State} (h : s.win.chunk ≠ 0#32) : s.arm =
    ({ s with
        ch := { active := true, src := s.win.pos, dst := s.win.sink, len := s.win.chunk, rem := s.win.chunk, done := false }
        raced := [] },
      .armOk) := by
  simp [State.arm, h]

/-- `arm` on an empty chunk. -/
theorem State.arm_zero {s : State} (h : s.win.chunk = 0#32) : s.arm =
    ({ s with ch := { s.ch with active := false, done := false, rem := 0#32 }, raced := [] }, .armZero) := by
  simp [State.arm, h]

/-! ### The channel's moves -/

/-- Everything the move of one byte can do. -/
theorem State.moveByte_cases (a : Nat) (s : State) :
    (s.params.direction = .memToSink ∧ ∃ d, s.moveByte a
        = { s with sink := s.sink ++ [⟨s.ch.dst, s.chanRead a⟩], draws := d })
    ∨ (s.params.direction = .sourceToMem ∧ s.moveByte a
        = { s with mem := Memory.write s.mem a (Config.sourceByte s.sourceTaken), sourceTaken := s.sourceTaken + 1 }) := by
  unfold State.moveByte
  cases h : s.params.direction with
  | memToSink =>
    exact .inl ⟨rfl, _, rfl⟩
  | sourceToMem => exact .inr ⟨rfl, rfl⟩

/-- Everything the move of `n` bytes can do. -/
theorem State.moveBytes_frame (n a : Nat) (s : State) : ∃ m k c d,
    s.moveBytes n a = { s with mem := m, sink := k, sourceTaken := c, draws := d }
      ∧ (Memory.wf s.mem = true → a + n ≤ maxAddr + 1 → Memory.wf m = true) := by
  induction n generalizing a s with
  | zero => exact ⟨s.mem, s.sink, s.sourceTaken, s.draws, rfl, fun h _ => h⟩
  | succ n ih =>
    obtain ⟨m, k, c, d, e, hw⟩ := ih (a + 1) (s.moveByte a)
    refine ⟨m, k, c, d, ?_, fun h1 h2 => hw ?_ (by omega)⟩
    · show State.moveBytes n (a + 1) (s.moveByte a) = _
      rw [e]
      obtain ⟨_, _, e'⟩ | ⟨_, e'⟩ := s.moveByte_cases a <;> rw [e']
    · obtain ⟨_, _, e'⟩ | ⟨_, e'⟩ := s.moveByte_cases a <;> rw [e']
      · exact h1
      · exact Memory.wf_write _ _ h1 (by omega)

/-- The channel after an enabled beat, in closed form. -/
theorem Channel.afterBeat_eq (c : Channel) {k : Nat} (h : k ≤ c.rem.toNat) :
    c.afterBeat k = if k = c.rem.toNat then { c with rem := 0#32, active := false, done := true }
      else { c with rem := c.rem - BitVec.ofNat 32 k } := by
  have hlt := c.rem.isLt
  unfold Channel.afterBeat
  by_cases hk : k = c.rem.toNat
  · rw [if_pos (by omega), if_pos hk]
  · rw [if_neg (by omega), if_neg hk]
    congr 1
    apply BitVec.eq_of_toNat_eq
    simp only [word, BitVec.toNat_ofNat, BitVec.toNat_sub]
    omega

/-! ### Registers -/

/-- The register at an offset within a port slot. -/
theorem regOf_port (off : BitVec 12) (p sub : Nat) (h : off.toNat = 0x100 + 0x20 * p + sub) (hs : sub < 0x20) :
    regOf off = portReg p sub := by
  unfold regOf
  rw [if_neg (by omega), show (off.toNat - 0x100) / 0x20 = p by omega, show (off.toNat - 0x100) % 0x20 = sub by omega]

/-- No port slot holds a block register. -/
theorem portReg_ne (p sub : Nat) : portReg p sub ≠ .irqStatus ∧ portReg p sub ≠ .irqEnable := by
  unfold portReg
  split_ifs <;> exact ⟨by simp, by simp⟩

/-- IRQ_STATUS and IRQ_ENABLE have one offset each (10_state.md R35). -/
theorem blockReg_irq : ∀ n, n < 0x100 →
    (blockReg n = .irqStatus → n = 0x00C) ∧ (blockReg n = .irqEnable → n = 0x010) := by
  decide +kernel

theorem regOf_irqStatus {off : BitVec 12} (h : regOf off = .irqStatus) : off = 0x00C#12 := by
  unfold regOf at h
  split at h
  · rename_i hl
    exact BitVec.eq_of_toNat_eq ((blockReg_irq _ hl).1 h)
  · exact absurd h (portReg_ne _ _).1

theorem regOf_irqEnable {off : BitVec 12} (h : regOf off = .irqEnable) : off = 0x010#12 := by
  unfold regOf at h
  split at h
  · rename_i hl
    exact BitVec.eq_of_toNat_eq ((blockReg_irq _ hl).2 h)
  · exact absurd h (portReg_ne _ _).2

end Sys2Proof.Machine
end

