-- ==== Sys2Proof/Laws/Exec.lean ====
section
/-! SUPPORT. Everything one instruction can do, said once: the inversion of `exec`, and what a decoded command writes. -/

namespace Sys2Proof.Machine

/-- The ways an instruction can answer a next state. -/
inductive Effect (s : State) : Instr → State → Prop where
  | pass (i : Instr) : Effect s i s
  | command (i : Instr) (p : Nat) (c : Cmd) (q : Port) (hi : i.issues = some (p, c)) (hp : i.cmdPort = some p)
      (hr : s.Ready p q) : Effect s i (runCmd p c q s)
  | illegal (i : Instr) (p : Nat) (q : Port) (hi : i.issues = none) (hp : i.cmdPort = some p) (hr : s.Ready p q) :
      Effect s i (s.finish p .illegalCommand 0#32)
  | beat (k : Nat) (he : s.beatEnabled k = true) (hm : s.params.firstAbsent k s.ch.next = none) :
      Effect s (.beat k) (s.beat k)
  | complete (he : s.completeEnabled = true) : Effect s .complete s.complete
  | notify (he : s.notifyEnabled = true) : Effect s .notify s.notify
  | waitTimeout (p : Nat) (q : Port) (hq : s.ports[p]? = some q) (hb : q.busy = true) :
      Effect s (.waitTimeout p) (s.finish p .ok 0#32)
  | strayDone (he : s.engine = .idle) : Effect s .strayDone (s.setCh { s.ch with done := true })
  | reset : Effect s .reset s.blockReset
  | read (off : BitVec 12) (w : AccessWidth) (x : Word) : Effect s (.mmioRead off w) { s with busData := x }
  | irqStatus (off : BitVec 12) (v : Word) (hr : regOf off = .irqStatus) :
      Effect s (.mmioWrite off .w32 v) { s with irqStatus := clearOnes s.irqStatus v }
  | irqEnable (off : BitVec 12) (v : Word) (hr : regOf off = .irqEnable) :
      Effect s (.mmioWrite off .w32 v) { s with irqEnable := v.extractLsb' 0 2 }
  | arg (off : BitVec 12) (v : Word) (p : Nat) (k : Fin 4) (hr : regOf off = .arg p k) :
      Effect s (.mmioWrite off .w32 v) (s.updPort p (Port.setArg k v))

/-- A command instruction either is dropped or runs its rule. -/
theorem Effect.of_onPort (s : State) (i : Instr) (p : Nat) (c : Cmd) (hi : i.issues = some (p, c))
    (hp : i.cmdPort = some p) : Effect s i (s.onPort p (runCmd p c)) := by
  obtain h | ⟨q, hq, hb, h⟩ := s.onPort_cases p (runCmd p c) <;> rw [h]
  · exact .pass i
  · exact .command i p c q hi hp ⟨hq, hb⟩

/-- A register write, by the register it hits. -/
theorem Effect.of_regWrite (s : State) (off : BitVec 12) (v : Word) :
    Effect s (.mmioWrite off .w32 v) (s.regWrite (regOf off) v) := by
  cases hr : regOf off with
  | irqStatus => exact .irqStatus off v hr
  | irqEnable => exact .irqEnable off v hr
  | arg p k => exact .arg off v p k hr
  | cmd p =>
    have hp : (Instr.mmioWrite off .w32 v).cmdPort = some p := by simp [Instr.cmdPort, hr]
    show Effect s _ (s.issue p v)
    cases hd : decodeCmd v with
    | error e =>
      have hi : (Instr.mmioWrite off .w32 v).issues = none := by simp [Instr.issues, hr, hd]
      obtain h | ⟨q, hq, hb, h⟩ := s.onPort_cases p (issueRule p v) <;> rw [State.issue, h]
      · exact .pass _
      · rw [show issueRule p v q s = s.finish p .illegalCommand 0#32 by simp [issueRule, hd]]
        exact .illegal _ p q hi hp ⟨hq, hb⟩
    | ok c =>
      have hi : (Instr.mmioWrite off .w32 v).issues = some (p, c) := by simp [Instr.issues, hr, hd]
      rw [State.issue, show issueRule p v = runCmd p c by funext q t; simp [issueRule, hd]]
      exact .of_onPort s _ p c hi hp
  | _ => exact .pass _

/-- Everything an instruction that answers a next state has done. -/
theorem exec_effect {i : Instr} {s t : State} (h : exec i s = .next t) : Effect s i t := by
  cases i with
  | openCmd p m => cases h; exact .of_onPort s _ p (.openSession m) rfl rfl
  | close p => cases h; exact .of_onPort s _ p .close rfl rfl
  | start p => cases h; exact .of_onPort s _ p .start rfl rfl
  | stop p => cases h; exact .of_onPort s _ p .stop rfl rfl
  | getoff p => cases h; exact .of_onPort s _ p .getoff rfl rfl
  | reqaddr p => cases h; exact .of_onPort s _ p .reqaddr rfl rfl
  | waitgen p => cases h; exact .of_onPort s _ p .waitgen rfl rfl
  | beat k =>
    simp only [exec, execBeat] at h
    split at h
    · rename_i he
      split at h
      · cases h
      · rename_i hm; cases h; exact .beat k he hm
    · cases h; exact .pass _
  | complete =>
    cases h
    show Effect s _ (if s.completeEnabled then s.complete else s)
    split
    · exact .complete ‹_›
    · exact .pass _
  | notify =>
    cases h
    show Effect s _ (if s.notifyEnabled then s.notify else s)
    split
    · exact .notify ‹_›
    · exact .pass _
  | waitTimeout p =>
    cases h
    show Effect s _ (if s.waitTimeoutEnabled p then s.finish p .ok 0#32 else s)
    split
    · rename_i he
      unfold State.waitTimeoutEnabled at he
      split at he
      · cases he
      · rename_i q hq; exact .waitTimeout p q hq he
    · exact .pass _
  | strayDone =>
    cases h
    show Effect s _ (if s.strayDoneEnabled then s.setCh { s.ch with done := true } else s)
    split
    · exact .strayDone (of_decide_eq_true ‹_›)
    · exact .pass _
  | reset => cases h; exact .reset
  | mmioRead off w =>
    simp only [exec, execMmioRead] at h
    split at h
    · cases h; exact .read off w _
    · cases h
  | mmioWrite off w v =>
    simp only [exec, execMmioWrite] at h
    split at h
    · rename_i ha
      cases h
      rw [show w = .w32 from (of_decide_eq_true ha).1]
      exact .of_regWrite s off v
    · cases h

/-! ### The latched swap -/

/-- START's window work in closed form. -/
theorem State.startWindow_eq (s : State) : ∃ w pv, s.startWindow = { s with win := w, pendValid := pv }
    ∧ w.len = s.win.len ∧ w.period = s.win.period ∧ w.sink = s.win.sink
    ∧ (s.swapLatched = false → w.start = s.win.start ∧ w.fin = s.win.fin ∧ pv = s.pendValid)
    ∧ (s.swapLatched = true → pv = false) := by
  unfold State.startWindow
  cases h : s.swapLatched
  · exact ⟨_, _, rfl, by simp [Window.advance_eq]⟩
  · exact ⟨_, _, rfl, by simp [Window.advance_eq, State.applySwap]⟩

/-- COMPLETE's window work in closed form. -/
theorem State.completeWindow_eq (s : State) : ∃ w pv, s.completeWindow = { s with win := w, pendValid := pv }
    ∧ w.len = s.win.len ∧ w.period = s.win.period ∧ w.sink = s.win.sink
    ∧ (s.swapLatched = false → w.start = s.win.start ∧ w.fin = s.win.fin ∧ pv = s.pendValid)
    ∧ (s.swapLatched = true → pv = false) := by
  unfold State.completeWindow
  cases h : s.swapLatched
  · exact ⟨_, _, rfl, by simp⟩
  · exact ⟨_, _, rfl, by simp [State.applySwap, State.setWin]⟩

/-- `arm` writes the channel and the raced list alone. -/
theorem State.arm_eq (s : State) : ∃ c, s.arm.1 = { s with ch := c, raced := [] } := by
  unfold State.arm
  split <;> exact ⟨_, rfl⟩

/-- A re-arm either is the arm, or the arm followed by Idle and FAULT(ZERO_LENGTH). -/
theorem State.rearm_cases (s : State) : s.rearm = s.arm.1 ∨ s.rearm = (s.arm.1.setEngine .idle).raiseZeroLength := by
  unfold State.rearm
  split <;> rename_i h <;> rw [h] <;> simp

/-- `arm` leaves no completion pending. -/
@[simp] theorem State.arm_done (s : State) : s.arm.1.ch.done = false := by
  unfold State.arm
  split <;> rfl

@[simp] theorem State.rearm_done (s : State) : s.rearm.ch.done = false := by
  obtain h | h := s.rearm_cases <;> simp [h]

/-- COMPLETE takes the completion signal down, whatever it finds (42_completion.md R190). -/
@[simp] theorem State.complete_done (s : State) : s.complete.ch.done = false := by
  unfold State.complete
  split <;> simp

/-- NOTIFY takes the pending notification away (42_completion.md R195). -/
@[simp] theorem State.notify_notifyPending (s : State) : s.notify.notifyPending = .none := by
  unfold State.notify
  split <;> rfl

/-! ### What a command writes -/

/-- What a decoded command leaves in `t`: the fields it may write, and which command writes which. -/
structure CmdWrites (s : State) (p : Nat) (c : Cmd) (t : State) : Prop where
  frame : ∃ se en mo wi ch pa pv ra dr f, t = { s with
      session := se, engine := en, mode := mo, win := wi, ch := ch, pendAddr := pa, pendValid := pv
      raced := ra, draws := dr, ports := s.ports.modify p f }
    ∧ ∀ r, (f r).arg0 = r.arg0 ∧ (f r).arg1 = r.arg1 ∧ (f r).arg2 = r.arg2 ∧ (f r).arg3 = r.arg3
  session : t.session ≠ s.session → (∃ m, c = .openSession m) ∨ c = .close
  mode : t.mode ≠ s.mode → ∃ m, c = .openSession m
  engine : t.engine ≠ s.engine → (c = .start ∧ t.engine = .running) ∨ (c = .stop ∧ t.engine = .idle)
  win : t.win ≠ s.win → (∃ m, c = .openSession m) ∨ c = .start
  start : c = .start → t.win.len = s.win.len ∧ t.win.period = s.win.period ∧ t.win.sink = s.win.sink
    ∧ (s.swapLatched = false → t.win.start = s.win.start ∧ t.win.fin = s.win.fin)
  ch : t.ch ≠ s.ch → c = .start ∨ c = .stop
  stop : c = .stop → t.ch = s.ch ∨ t.ch = { s.ch with active := false, rem := 0#32 }
  pendAddr : t.pendAddr ≠ s.pendAddr → c = .reqaddr
  latch : s.pendValid = false → t.pendValid = true → c = .reqaddr
  unlatch : s.pendValid = true → t.pendValid = false → (∃ m, c = .openSession m) ∨ c = .close ∨ c = .start

/-- Ending a command adds nothing to what it writes but its port's CODE, RESULT and BUSY. -/
theorem CmdWrites.of_finish (s : State) (p : Nat) (c : Cmd) (t : State) (k : Code) (r : Word)
    (ht : ∃ se en mo wi ch pa pv ra dr, t = { s with
      session := se, engine := en, mode := mo, win := wi, ch := ch, pendAddr := pa, pendValid := pv
      raced := ra, draws := dr })
    (h1 : t.session ≠ s.session → (∃ m, c = .openSession m) ∨ c = .close)
    (h2 : t.mode ≠ s.mode → ∃ m, c = .openSession m)
    (h3 : t.engine ≠ s.engine → (c = .start ∧ t.engine = .running) ∨ (c = .stop ∧ t.engine = .idle))
    (h4 : t.win ≠ s.win → (∃ m, c = .openSession m) ∨ c = .start)
    (h5 : c = .start → t.win.len = s.win.len ∧ t.win.period = s.win.period ∧ t.win.sink = s.win.sink
      ∧ (s.swapLatched = false → t.win.start = s.win.start ∧ t.win.fin = s.win.fin))
    (h6 : t.ch ≠ s.ch → c = .start ∨ c = .stop)
    (h7 : c = .stop → t.ch = s.ch ∨ t.ch = { s.ch with active := false, rem := 0#32 })
    (h8 : t.pendAddr ≠ s.pendAddr → c = .reqaddr)
    (h9 : s.pendValid = false → t.pendValid = true → c = .reqaddr)
    (h10 : s.pendValid = true → t.pendValid = false → (∃ m, c = .openSession m) ∨ c = .close ∨ c = .start) :
    CmdWrites s p c (t.finish p k r) := by
  obtain ⟨se, en, mo, wi, ch, pa, pv, ra, dr, rfl⟩ := ht
  exact ⟨⟨se, en, mo, wi, ch, pa, pv, ra, dr, _, rfl, fun _ => ⟨rfl, rfl, rfl, rfl⟩⟩, h1, h2, h3, h4, h5, h6, h7, h8,
    h9, h10⟩

/-- A command that fails writes its port alone. -/
theorem CmdWrites.failed (s : State) (p : Nat) (c : Cmd) (k : Code) (r : Word) : CmdWrites s p c (s.finish p k r) :=
  .of_finish s p c s k r ⟨_, _, _, _, _, _, _, _, _, rfl⟩ (by simp) (by simp) (by simp) (by simp) (by simp) (by simp)
    (by simp) (by simp) (fun h h' => absurd (h.symm.trans h') (by decide))
    (fun h h' => absurd (h.symm.trans h') (by decide))

theorem openRule_writes (p : Nat) (m : Mode) (q : Port) (s : State) :
    CmdWrites s p (.openSession m) (openRule p m q s) := by
  unfold openRule
  split
  · exact .failed ..
  · exact .of_finish _ _ _ _ _ _ ⟨_, _, _, _, _, _, _, _, _, rfl⟩ (by simp) (by simp) (by simp) (by simp) (by simp)
      (by simp) (by simp) (by simp) (by simp) (by simp)

theorem closeRule_writes (p : Nat) (q : Port) (s : State) : CmdWrites s p .close (closeRule p q s) := by
  unfold closeRule
  split
  · exact .failed ..
  · exact .of_finish _ _ _ _ _ _ ⟨_, _, _, _, _, _, _, _, _, rfl⟩ (by simp) (by simp) (by simp) (by simp) (by simp)
      (by simp) (by simp) (by simp) (by simp) (by simp)

theorem startRule_writes (p : Nat) (q : Port) (s : State) : CmdWrites s p .start (startRule p q s) := by
  unfold startRule
  split
  · exact .failed ..
  split
  · exact .failed ..
  obtain ⟨w, pv, e, a1, a2, a3, a4, a5⟩ := s.startWindow_eq
  obtain ⟨ch, ea⟩ := s.startWindow.arm_eq
  split
  all_goals
    rename_i t ht
    rw [ht, e] at ea
    dsimp only at ea
    subst ea
    refine .of_finish _ _ _ _ _ _ ⟨_, _, _, _, _, _, _, _, _, rfl⟩ (by simp) (by simp) (by simp) (by simp)
      (fun _ => ⟨a1, a2, a3, fun h => ⟨(a4 h).1, (a4 h).2.1⟩⟩) (by simp) (by simp) (by simp) ?_ (by simp)
    intro h h'
    exfalso
    cases hsw : s.swapLatched
    · have := (a4 hsw).2.2
      simp_all
    · have := a5 hsw
      simp_all

theorem stopRule_writes (p : Nat) (q : Port) (s : State) : CmdWrites s p .stop (stopRule p q s) := by
  unfold stopRule State.stopChannel
  split
  · refine .of_finish _ _ _ _ _ _ ⟨_, _, _, _, _, _, _, _, _, rfl⟩ (by simp) (by simp) (by simp [State.setEngine])
      (by simp) (by simp) (by simp) ?_ (by simp) (by simp) (by simp)
    intro _
    dsimp only
    split <;> simp [Channel.aborted]
  · exact .of_finish _ _ _ _ _ _ ⟨_, _, _, _, _, _, _, _, _, rfl⟩ (by simp) (by simp) (by simp [State.setEngine])
      (by simp) (by simp) (by simp) (by simp) (by simp) (by simp) (by simp)

theorem getoffRule_writes (p : Nat) (q : Port) (s : State) : CmdWrites s p .getoff (getoffRule p q s) := by
  unfold getoffRule
  split <;> exact .failed ..

theorem reqaddrRule_writes (p : Nat) (q : Port) (s : State) : CmdWrites s p .reqaddr (reqaddrRule p q s) := by
  unfold reqaddrRule
  split
  · exact .failed ..
  split
  · exact .failed ..
  split
  · exact .failed ..
  exact .of_finish _ _ _ _ _ _ ⟨_, _, _, _, _, _, _, _, _, rfl⟩ (by simp) (by simp) (by simp) (by simp) (by simp)
    (by simp) (by simp) (by simp) (by simp) (by simp)

theorem waitgenRule_writes (p : Nat) (q : Port) (s : State) : CmdWrites s p .waitgen (waitgenRule p q s) := by
  unfold waitgenRule
  split
  · exact .failed ..
  split
  · exact .failed ..
  split
  · exact .failed ..
  split
  · exact .failed ..
  exact ⟨⟨_, _, _, _, _, _, _, _, _, _, rfl, fun _ => ⟨rfl, rfl, rfl, rfl⟩⟩, by simp, by simp, by simp, by simp,
    by simp, by simp, by simp, by simp, by simp, by simp⟩

/-- What each decoded command writes. -/
theorem runCmd_writes (p : Nat) (c : Cmd) (q : Port) (s : State) : CmdWrites s p c (runCmd p c q s) := by
  cases c with
  | openSession m => exact openRule_writes p m q s
  | close => exact closeRule_writes p q s
  | start => exact startRule_writes p q s
  | stop => exact stopRule_writes p q s
  | getoff => exact getoffRule_writes p q s
  | reqaddr => exact reqaddrRule_writes p q s
  | waitgen => exact waitgenRule_writes p q s

/-! ### What COMPLETE writes -/

/-- What COMPLETE leaves in `t`. -/
structure CompleteWrites (s t : State) : Prop where
  frame : ∃ en wi ch np pv ra iq fz, t = { s with
      engine := en, win := wi, ch := ch, notifyPending := np, pendValid := pv, raced := ra, irqStatus := iq
      faultZl := fz }
  engine : (t.engine = s.engine ∧ t.irqStatus = s.irqStatus ∧ t.faultZl = s.faultZl)
    ∨ (t.engine = .idle ∧ s.engine = .running ∧ t.faultZl = true ∧ t.irqStatus = s.irqStatus ||| 0b10#2)
  win : t.win.len = s.win.len ∧ t.win.period = s.win.period ∧ t.win.sink = s.win.sink
    ∧ (s.swapLatched = false → t.win.start = s.win.start ∧ t.win.fin = s.win.fin)
  latch : s.pendValid = false → t.pendValid = false

theorem complete_writes (s : State) : CompleteWrites s s.complete := by
  unfold State.complete
  split
  · rename_i hr
    obtain ⟨w, pv, e, a1, a2, a3, a4, a5⟩ := (s.setCh { s.ch with done := false }).completeWindow_eq
    obtain ⟨ch, ea⟩ := (s.setCh { s.ch with done := false }).completeWindow.arm_eq
    have hl : s.pendValid = false → pv = false := by
      intro h
      cases hsw : s.swapLatched
      · rw [(a4 hsw).2.2]
        exact h
      · exact a5 hsw
    dsimp only at e ea ⊢
    rw [e] at ea ⊢
    obtain h | h := State.rearm_cases { s.setCh { s.ch with done := false } with win := w, pendValid := pv } <;>
      rw [h, ea]
    · exact ⟨⟨_, _, _, _, _, _, _, _, rfl⟩, .inl ⟨rfl, rfl, rfl⟩, ⟨a1, a2, a3, fun h => ⟨(a4 h).1, (a4 h).2.1⟩⟩, hl⟩
    · exact ⟨⟨_, _, _, _, _, _, _, _, rfl⟩, .inr ⟨rfl, hr, rfl, rfl⟩,
        ⟨a1, a2, a3, fun h => ⟨(a4 h).1, (a4 h).2.1⟩⟩, hl⟩
  · exact ⟨⟨_, _, _, _, _, _, _, _, rfl⟩, .inl ⟨rfl, rfl, rfl⟩, ⟨rfl, rfl, rfl, fun _ => ⟨rfl, rfl⟩⟩, id⟩

end Sys2Proof.Machine
end

