-- ==== Sys2Proof/Laws/PerInstr.lean ====
section
/-! SUPPORT. A statement about every instruction as syntax, one lemma per constructor: the lowest byte of its encoding is
the match byte that spec/opcode_table.json gives its row (30_encoding.md R102, R108). -/

namespace Sys2Proof.Laws.TableByte

/-- The match byte of an instruction's row. -/
def matchByte : Instr → BitVec 8
  | .openCmd _ _ => 0x01#8
  | .close _ => 0x02#8
  | .start _ => 0x03#8
  | .stop _ => 0x04#8
  | .getoff _ => 0x05#8
  | .reqaddr _ => 0x06#8
  | .waitgen _ => 0x07#8
  | .beat _ => 0x80#8
  | .complete => 0x81#8
  | .notify => 0x82#8
  | .waitTimeout _ => 0x83#8
  | .strayDone => 0x84#8
  | .reset => 0x85#8
  | .mmioRead _ _ => 0x90#8
  | .mmioWrite _ _ _ => 0x91#8

/-- The lowest byte of an entry's word. -/
def lowByte : Entry → BitVec 8
  | .command _ w => cwOp w
  | .event r => evLabel r
  | .hostStore _ b => b
  | .hostLoad _ => 0#8
  | .hostTurn _ => 0#8

def Statement (i : Instr) : Prop := lowByte (encode i) = matchByte i

theorem openCmd (p : Nat) (m : Mode) : Statement (.openCmd p m) := by
  cases m <;> simp only [Statement, encode, lowByte, matchByte] <;> decide
theorem close (p : Nat) : Statement (.close p) := by simp only [Statement, encode, lowByte, matchByte]; decide
theorem start (p : Nat) : Statement (.start p) := by simp only [Statement, encode, lowByte, matchByte]; decide
theorem stop (p : Nat) : Statement (.stop p) := by simp only [Statement, encode, lowByte, matchByte]; decide
theorem getoff (p : Nat) : Statement (.getoff p) := by simp only [Statement, encode, lowByte, matchByte]; decide
theorem reqaddr (p : Nat) : Statement (.reqaddr p) := by simp only [Statement, encode, lowByte, matchByte]; decide
theorem waitgen (p : Nat) : Statement (.waitgen p) := by simp only [Statement, encode, lowByte, matchByte]; decide

theorem beat (k : Nat) : Statement (.beat k) := evLabel_evRecord _ _ _ _
theorem complete : Statement .complete := evLabel_evRecord _ _ _ _
theorem notify : Statement .notify := evLabel_evRecord _ _ _ _
theorem waitTimeout (p : Nat) : Statement (.waitTimeout p) := evLabel_evRecord _ _ _ _
theorem strayDone : Statement .strayDone := evLabel_evRecord _ _ _ _
theorem reset : Statement .reset := evLabel_evRecord _ _ _ _
theorem mmioRead (off : BitVec 12) (w : AccessWidth) : Statement (.mmioRead off w) := evLabel_evRecord _ _ _ _
theorem mmioWrite (off : BitVec 12) (w : AccessWidth) (v : Word) : Statement (.mmioWrite off w v) :=
  evLabel_evRecord _ _ _ _

end Sys2Proof.Laws.TableByte
end

