-- ==== Sys2Proof/Laws/Step.lean ====
section
/-! SUPPORT. Everything one step can do, said once: the inversion of `step`. Laws/Exec.lean does the same for `exec`. -/

namespace Sys2Proof.Machine

/-- A run of one step more, where that step answers a next state. -/
theorem run_succ (M : Host.Core) (n : Nat) {s t : M.State} (h : M.step s = .next t) : M.run (n + 1) s = M.run n t := by
  rw [Host.Core.run, h]

/-- An item that decodes is the instruction that the step runs, on the state as it was before the item came. -/
theorem step_withEntry {s : State} {e : Entry} {i : Instr} (h : decode e = .ok i) : step (s.withEntry e) = exec i s := by
  simp only [step, fetch, State.withEntry, h]

@[simp] theorem HostOp.again_read (s : State) (off : BitVec 12) : (HostOp.read off).again s = false := rfl
@[simp] theorem HostOp.again_write (s : State) (off : BitVec 12) (v : Word) : (HostOp.write off v).again s = false := rfl

/-- The offset of a port's PSTATUS (10_state.md R35). -/
theorem regOf_pstatus {p : Nat} (hp : p < Config.maxPorts) :
    regOf (BitVec.ofNat 12 (portBase p + 0x18)) = .pstatus p := by
  have h120 : p < 120 := hp
  have hn : (BitVec.ofNat 12 (portBase p + 0x18)).toNat = 0x100 + 0x20 * p + 0x18 := by
    rw [BitVec.toNat_ofNat, portBase]; omega
  rw [regOf, hn, if_neg (by omega), show (0x100 + 0x20 * p + 0x18 - 0x100) / 0x20 = p by omega,
    show (0x100 + 0x20 * p + 0x18 - 0x100) % 0x20 = 0x18 by omega]
  rfl

/-- WAITDONE repeats exactly while its port is BUSY (30_encoding.md R112). -/
theorem HostOp.again_waitdone {s : State} {p : Nat} {q : Port} (hp : p < Config.maxPorts) (hq : s.ports[p]? = some q) :
    (HostOp.waitdone p).again s = q.busy := by
  simp only [HostOp.again, regOf_pstatus hp, State.regRead, State.portRead, hq, Port.pstatus]
  cases q.busy <;> cases q.code <;> decide

/-- The ways a step can answer a next state. -/
inductive StepEffect (s : State) : State → Prop where
  | idle (hf : s.feed = []) : StepEffect s s
  | passed (m : Nat) (rest : List Entry) (hf : s.feed = .hostTurn m :: rest) (hh : s.hosts[m]?.getD [] = []) :
      StepEffect s { s with feed := rest }
  | instr (e : Entry) (rest : List Entry) (i : Instr) (t : State) (hf : s.feed = e :: rest) (hd : decode e = .ok i)
      (h : exec i { s with feed := rest } = .next t) : StepEffect s t
  | hostOp (m : Nat) (rest : List Entry) (op : HostOp) (ops : List HostOp) (t : State) (hf : s.feed = .hostTurn m :: rest)
      (hh : s.hosts[m]? = some (op :: ops))
      (h : exec op.instr
        { s with feed := rest, hosts := if op.again s then s.hosts else s.hosts.set m ops } = .next t) : StepEffect s t
  | illegal (p : Nat) (w : Word) (rest : List Entry) (hf : s.feed = .command p w :: rest) (hp : p < Config.maxPorts)
      (hd : ∃ e, decodeCmd w = .error e) : StepEffect s (State.issue p w { s with feed := rest })
  | hostStore (a : Word) (b : Byte) (rest : List Entry) (t : State) (hf : s.feed = .hostStore a b :: rest)
      (h : Machine.hostStore a b { s with feed := rest } = .next t) : StepEffect s t
  | hostLoad (a : Word) (rest : List Entry) (t : State) (hf : s.feed = .hostLoad a :: rest)
      (h : Machine.hostLoad a { s with feed := rest } = .next t) : StepEffect s t

/-- Repeating does not look at the feed. -/
@[simp] theorem HostOp.again_feed (s : State) (f : List Entry) (op : HostOp) :
    op.again { s with feed := f } = op.again s := by
  cases op with
  | read off => rfl
  | write off v => rfl
  | waitdone p => simp only [HostOp.again, State.regRead]; rfl

/-- Everything a step that answers a next state has done. -/
theorem step_effect {s t : State} (h : step s = .next t) : StepEffect s t := by
  cases hf : s.feed with
  | nil =>
    simp only [step, fetch, hf] at h
    cases h
    exact .idle hf
  | cons e rest =>
    simp only [step, fetch, hf] at h
    cases hd : decode e with
    | ok i =>
      rw [hd] at h
      exact .instr e rest i t hf hd h
    | error err =>
      rw [hd] at h
      cases e with
      | command p w =>
        simp only [noInstr] at h
        split at h
        · rename_i hp
          cases h
          refine .illegal p w rest hf hp ?_
          simp only [decode, hp, if_true] at hd
          split at hd
          · cases hd
          · exact ⟨_, ‹_›⟩
        · cases h
      | event r => cases h
      | hostStore a b => exact .hostStore a b rest t hf h
      | hostLoad a => exact .hostLoad a rest t hf h
      | hostTurn m =>
        simp only [noInstr, hostTurn, State.afterHostOp] at h
        cases hh : s.hosts[m]? with
        | none =>
          simp only [hh] at h
          cases h
          exact .passed m rest hf (by simp [hh])
        | some l =>
          cases l with
          | nil =>
            simp only [hh] at h
            cases h
            exact .passed m rest hf (by simp [hh])
          | cons op ops =>
            simp only [hh, HostOp.again_feed] at h
            exact .hostOp m rest op ops t hf hh h

end Sys2Proof.Machine
end

