-- ==== Sys2Proof/Tests/Slice0.lean ====
section
/-! SUPPORT. The model's own tests: ill-formed terms, one word per constructor written out from 30_encoding.md, at most two
one-step tests per instruction with expected values from 95_test_vectors.md, and a witness for the hypotheses of every
obligation that has any. -/

namespace Sys2Proof.Tests

open Sys2Proof.Machine

/-! ### Small states -/

/-- The next state of an answer, if it is one. -/
def after (o : Answer) : Option State :=
  match o with
  | .next t => some t
  | _ => none

/-- A window at `a` with position `pos` and chunk `c`. -/
def win (a len per pos c : Word) : Window :=
  { start := a, fin := a + len, len := len, period := per, sink := 0xF0000000#32, pos := pos, chunk := c }

/-- A channel with `rem` of `len` bytes from `a` on still to move; active until none is left. -/
def chan (a len rem : Word) : Channel :=
  { active := decide (rem ≠ 0#32), src := a, dst := 0xF0000000#32, len := len, rem := rem, done := decide (rem = 0#32) }

/-- A port with its ARG registers set. -/
def args (a b c d : Word) : Port := { Port.reset with arg0 := a, arg1 := b, arg2 := c, arg3 := d }

/-- A port that waits for a target. -/
def waiting (t : Word) : Port := { Port.reset with busy := true, waitTarget := t, waitTmo := 50#32 }

/-- A state with port `p` replaced. -/
def put (p : Nat) (q : Port) (s : State) : State := { s with ports := s.ports.set p q }

/-- Open and Idle in mode `m` on the buffer [a, a + len). -/
def opened (m : Mode) (a len per : Word) : State :=
  { State.reset with session := .opened, mode := m, win := win a len per a 0#32 }

/-- Running in mode `m` with the chunk `c` at `pos` armed and `rem` of its bytes to move. -/
def running (m : Mode) (a len per pos c rem : Word) : State :=
  { opened m a len per with engine := .running, win := win a len per pos c, ch := chan pos c rem }

/-- 95_test_vectors.md O1: Open PERIOD, 4 chunks of 1024 at 0x1000. -/
def o1 : State := opened .period 0x1000#32 4096#32 1024#32

/-- 95_test_vectors.md S2: O1 after START. -/
def s2 : State := running .period 0x1000#32 4096#32 1024#32 0x1000#32 1024#32 1024#32

/-- Open FRAME on 0x10000, 0x1000 bytes, Idle. -/
def frameIdle : State := opened .frame 0x10000#32 0x1000#32 0x1000#32

/-- The same, Running, with its frame moved (CH_DONE 1) and a swap to 0x20000 latched: 95_test_vectors.md C7. -/
def frameSwap : State :=
  { running .frame 0x10000#32 0x1000#32 0x1000#32 0x10000#32 0x1000#32 0#32 with
    pendAddr := 0x20000#32, pendValid := true }

/-- Running on 8 bytes at 0x1000 in chunks of 4, none of the first chunk moved. -/
def small : State := running .period 0x1000#32 8#32 4#32 0x1000#32 4#32 4#32

/-- `small` of a capture instance. -/
def smallIn : State := { small with params := { Params.reference with direction := .sourceToMem } }

/-- A state of no run: Open with a period of 0, so that the next chunk is empty. -/
def empty : State := opened .period 0#32 0#32 0#32

/-! ### Well-formedness: each check refuses an ill-formed term -/

theorem test_illformed_open : (Instr.openCmd 120 .period).wellFormed = false := by decide
theorem test_illformed_close : (Instr.close 120).wellFormed = false := by decide
theorem test_illformed_start : (Instr.start 120).wellFormed = false := by decide
theorem test_illformed_stop : (Instr.stop 120).wellFormed = false := by decide
theorem test_illformed_getoff : (Instr.getoff 120).wellFormed = false := by decide
theorem test_illformed_reqaddr : (Instr.reqaddr 120).wellFormed = false := by decide
theorem test_illformed_waitgen : (Instr.waitgen 120).wellFormed = false := by decide
theorem test_illformed_wait_timeout : (Instr.waitTimeout 120).wellFormed = false := by decide
theorem test_illformed_beat_empty : (Instr.beat 0).wellFormed = false := by decide
theorem test_illformed_beat_too_long : (Instr.beat (2 ^ 32 + 1)).wellFormed = false := by decide
theorem test_illformed_command_entry : decode (.command 120 0x00000003#32) = .error .badPort := by decide

/-! ### Decoding: a word per constructor, RSVD, M, OP (30_encoding.md R100 to R102), then the labels of R108 -/

theorem test_decode_open : decode (.command 0 0b00000000000000000000000000000001#32) = .ok (.openCmd 0 .period) := by
  decide
theorem test_decode_open_frame : decode (.command 3 0b00000000000000000000000100000001#32) = .ok (.openCmd 3 .frame) := by
  decide
theorem test_decode_close : decode (.command 1 0b00000000000000000000000000000010#32) = .ok (.close 1) := by decide
theorem test_decode_start : decode (.command 0 0b00000000000000000000000000000011#32) = .ok (.start 0) := by decide
theorem test_decode_stop : decode (.command 0 0b00000000000000000000000000000100#32) = .ok (.stop 0) := by decide
theorem test_decode_getoff : decode (.command 2 0b00000000000000000000000000000101#32) = .ok (.getoff 2) := by decide
theorem test_decode_reqaddr : decode (.command 0 0b00000000000000000000000000000110#32) = .ok (.reqaddr 0) := by decide
theorem test_decode_waitgen : decode (.command 119 0b00000000000000000000000000000111#32) = .ok (.waitgen 119) := by
  decide
theorem test_decode_illegal : decode (.command 0 0b00000000000000000000000011111111#32) = .error .illegalOpcode
    ∧ decode (.command 0 0b00000000000000000000001000000001#32) = .error .reservedBits
    ∧ decode (.command 0 0b00000000000000000000000100000010#32) = .error .modeBit := by decide
theorem test_decode_beat : decode (.event 0x000003FF00000080#64) = .ok (.beat 1024) := by decide
theorem test_decode_complete : decode (.event 0x0000000000000081#64) = .ok .complete := by decide
theorem test_decode_notify : decode (.event 0x0000000000000082#64) = .ok .notify := by decide
theorem test_decode_wait_timeout : decode (.event 0x0000000000000183#64) = .ok (.waitTimeout 1) := by decide
theorem test_decode_stray_done : decode (.event 0x0000000000000084#64) = .ok .strayDone := by decide
theorem test_decode_reset : decode (.event 0x0000000000000085#64) = .ok .reset := by decide
theorem test_decode_mmio_read : decode (.event 0x0000000001140090#64) = .ok (.mmioRead 0x114#12 .w32) := by decide
theorem test_decode_mmio_write :
    decode (.event 0xF0000000010C0091#64) = .ok (.mmioWrite 0x10C#12 .w32 0xF0000000#32) := by decide
theorem test_decode_unknown_label : decode (.event 0x0000000000000086#64) = .error .unknownLabel
    ∧ decode (.event 0x0000000010000090#64) = .error .badOffset
    ∧ decode (.event 0x0000000000000490#64) = .error .badWidth
    ∧ decode (.event 0x0000000100000081#64) = .error .unusedField := by decide

/-! ### One step each, expected values from 95_test_vectors.md -/

/-- O1. -/
theorem test_open : (after (exec (.openCmd 0 .period) (put 0 (args 0x1000#32 4096#32 1024#32 0xF0000000#32) State.reset))).map
      (fun t => (t.session, t.win, t.pendValid, (t.ports[0]?).map Port.pstatus))
    = some (.opened, ⟨0x1000#32, 0x2000#32, 4096#32, 1024#32, 0xF0000000#32, 0x1000#32, 0#32⟩, false, some 0#32) := by
  decide

/-- O5: a + len = 0x100000000. -/
theorem test_open_past_end : (after (exec (.openCmd 0 .period)
      (put 0 (args 0xFFFFF000#32 0x1000#32 0x1000#32 0#32) State.reset))).map
      (fun t => (t.session, (t.ports[0]?).map Port.pstatus)) = some (.closed, some 1#32) := by decide

/-- K2. -/
theorem test_close : (after (exec (.close 0) o1)).map (fun t => (t.session, t.win.start)) = some (.closed, 0x1000#32) := by
  decide

/-- K1. -/
theorem test_close_running : (after (exec (.close 0) s2)).map (fun t => (t.session, (t.ports[0]?).map Port.code))
    = some (.opened, some .invalidConfig) := by decide

/-- S2. -/
theorem test_start : (after (exec (.start 0) o1)).map (fun t => (t.engine, t.win.pos, t.win.chunk, t.ch))
    = some (.running, 0x1000#32, 1024#32, ⟨true, 0x1000#32, 0xF0000000#32, 1024#32, 1024#32, false⟩) := by decide

/-- S5. -/
theorem test_start_swap : (after (exec (.start 0) { frameIdle with pendAddr := 0x20000#32, pendValid := true })).map
      (fun t => (t.win.start, t.win.fin, t.win.pos, t.win.chunk, t.ch.src, t.pendValid))
    = some (0x20000#32, 0x21000#32, 0x20000#32, 0x1000#32, 0x20000#32, false) := by decide

/-- P1 and P2, in what they share. -/
theorem test_stop : (after (exec (.stop 0) { s2 with ch := chan 0x1000#32 1024#32 600#32 })).map
      (fun t => (t.engine, t.win.pos, (t.ports[0]?).map Port.pstatus)) = some (.idle, 0x1000#32, some 0#32) := by decide

/-- P5. -/
theorem test_stop_done : (after (exec (.stop 0) { s2 with ch := chan 0x1000#32 1024#32 0#32 })).map
      (fun t => (t.engine, t.ch.done)) = some (.idle, true) := by decide

/-- G3. -/
theorem test_getoff : (after (exec (.getoff 0)
      (running .period 0x1000#32 4096#32 1024#32 0x1400#32 1024#32 1000#32))).map
      (fun t => (t.ports[0]?).map Port.result) = some (some 1048#32) := by decide

/-- G8. -/
theorem test_getoff_clamp : (after (exec (.getoff 0)
      (running .period 0x2000#32 3000#32 1024#32 0x2800#32 952#32 0#32))).map
      (fun t => (t.ports[0]?).map Port.result) = some (some 0#32) := by decide

/-- V3. -/
theorem test_reqaddr : (after (exec (.reqaddr 0) (put 0 (args 0x20000#32 0#32 0#32 0#32) { frameIdle with gen := 5#32 }))).map
      (fun t => (t.pendAddr, t.pendValid, (t.ports[0]?).map Port.result)) = some (0x20000#32, true, some 6#32) := by decide

/-- V6. -/
theorem test_reqaddr_past_end : (after (exec (.reqaddr 0) (put 0 (args 0xFFFFF001#32 0#32 0#32 0#32) frameIdle))).map
      (fun t => (t.pendValid, (t.ports[0]?).map Port.pstatus)) = some (false, some 1#32) := by decide

/-- V11. -/
theorem test_waitgen : (after (exec (.waitgen 1)
      (put 1 { args 6#32 50#32 0#32 0#32 with code := .illegalCommand } { frameIdle with gen := 5#32 }))).map
      (fun t => (t.ports[1]?).map fun q => (q.pstatus, q.waitTarget)) = some (some (0x80000003#32, 6#32)) := by decide

/-- V8. -/
theorem test_waitgen_reached : (after (exec (.waitgen 1)
      (put 1 (args 5#32 50#32 0#32 0#32) { frameIdle with gen := 5#32 }))).map
      (fun t => (t.ports[1]?).map fun q => (q.busy, q.result)) = some (some (false, 1#32)) := by decide

/-- B1. -/
theorem test_beat : (after (exec (.beat 1) s2)).map
      (fun t => (t.ch.rem, t.ch.active, t.ch.done, t.sink.length)) = some (1023#32, true, false, 1) := by decide

/-- B4. -/
theorem test_beat_capture : (after (exec (.beat 3) { smallIn with ch := chan 0x4000#32 4#32 4#32 })).map
      (fun t => (t.ch.rem, Memory.read? t.mem 0x4001, Memory.read? t.mem 0x4003))
    = some (1#32, some (Config.sourceByte 1), none) := rfl

/-- E2, COMPLETE 2: the short chunk. -/
theorem test_complete : (after (exec .complete (running .period 0x2000#32 3000#32 1024#32 0x2400#32 1024#32 0#32))).map
      (fun t => (t.win.pos, t.win.chunk, t.ch.src, t.ch.len, t.notifyPending))
    = some (0x2800#32, 952#32, 0x2800#32, 952#32, .period) := by decide

/-- C7. -/
theorem test_complete_swap : (after (exec .complete frameSwap)).map
      (fun t => (t.win.start, t.win.fin, t.win.chunk, t.ch.src, t.pendValid, t.notifyPending))
    = some (0x20000#32, 0x21000#32, 0x1000#32, 0x20000#32, false, .frame) := by decide

/-- C5. -/
theorem test_notify_frame : (after (exec .notify
      (put 0 (waiting 0#32) (put 1 (waiting 5#32) { frameIdle with notifyPending := .frame, gen := 0xFFFFFFFF#32 })))).map
      (fun t => (t.gen, t.ports.map fun q => (q.result, q.busy)))
    = some (0#32, [(1#32, false), (0#32, true), (0#32, false), (0#32, false)]) := by decide

/-- C10. -/
theorem test_notify_wraps : (after (exec .notify { o1 with notifyPending := .period, periodCount := 0xFFFFFFFF#32 })).map
      (fun t => (t.periodCount, t.irqStatus, t.gen, t.notifyPending)) = some (0#32, 1#2, 0#32, .none) := by decide

/-- V13. -/
theorem test_wait_timeout : (after (exec (.waitTimeout 1) (put 1 (waiting 6#32) frameIdle))).map
      (fun t => (t.ports[1]?).map fun q => (q.pstatus, q.result)) = some (some (0#32, 0#32)) := by decide

/-- C8. -/
theorem test_stray_done : (after (exec .strayDone o1)).map (fun t => t.ch.done) = some true := by decide

/-- C9: not enabled while Running, so its turn passes. -/
theorem test_stray_done_running : after (exec .strayDone s2) = some s2 := by decide

/-- X1. -/
theorem test_reset : (after (exec .reset (put 2 (waiting 6#32) { s2 with notifyPending := .period, periodCount := 9#32 }))).map
      (fun t => (t.engine, t.ch.active, t.notifyPending, t.periodCount, (t.ports[2]?).map Port.pstatus))
    = some (.idle, false, .none, 0#32, some 0#32) := by decide

/-- H2, and H4 for STATE. -/
theorem test_mmio_read : (after (exec (.mmioRead 0x004#12 .w32) s2)).map State.busData = some 0x01200401#32
    ∧ (after (exec (.mmioRead 0x008#12 .w32) s2)).map State.busData = some 0x0000000B#32 := by decide

/-- H9. -/
theorem test_mmio_read_bus_error : exec (.mmioRead 0x002#12 .w32) s2 = .fault (.busError 0x002#12) := rfl

/-- H6, and H11: the CMD of a port that is not there. -/
theorem test_mmio_write :
    (after (exec (.mmioWrite 0x00C#12 .w32 1#32) { o1 with irqStatus := 0b11#2 })).map State.irqStatus = some 0b10#2
    ∧ after (exec (.mmioWrite 0x190#12 .w32 3#32) o1) = some o1 := by decide

/-- 45_host_interface.md R275's worked example: writing 3 to 0x110 runs START(0). -/
theorem test_mmio_write_cmd : (after (exec (.mmioWrite 0x110#12 .w32 3#32) o1)).map (fun t => t.engine) = some .running := by
  decide

/-- T3 and T5. -/
theorem test_tracker : (Window.advance (win 0x1000#32 0x1000#32 1024#32 0x2400#32 0#32)).pos = 0x1000#32
    ∧ (Window.nextChunk (win 0x2000#32 3000#32 1024#32 0x2800#32 0#32)).chunk = 952#32 := by decide

/-- 30_encoding.md R111's example: five writes. -/
theorem test_expand_open : (Stmt.openS 0 .period 0x1000#32 4096#32 1024#32 0xF0000000#32).expand.map HostOp.instr
    = [.mmioWrite 0x100#12 .w32 0x00001000#32, .mmioWrite 0x104#12 .w32 0x00001000#32,
       .mmioWrite 0x108#12 .w32 0x00000400#32, .mmioWrite 0x10C#12 .w32 0xF0000000#32,
       .mmioWrite 0x110#12 .w32 0x00000001#32] := by decide

/-- 30_encoding.md R111, of a WAITGEN on port 1: target, timeout, command word. -/
theorem test_expand_waitgen : (Stmt.waitgen 1 6#32 50#32).expand.map HostOp.instr
    = [.mmioWrite 0x120#12 .w32 6#32, .mmioWrite 0x124#12 .w32 50#32, .mmioWrite 0x130#12 .w32 7#32] := by decide

/-- 30_encoding.md R112: ACKPE clears PE. -/
theorem test_expand_ackpe : Stmt.ackpe.expand.map HostOp.instr = [.mmioWrite 0x00C#12 .w32 1#32] := by decide

/-- 30_encoding.md R112: WAITDONE stays while its port is BUSY, and the program goes on once it is not. -/
theorem test_waitdone :
    let s := { put 1 (waiting 6#32) frameIdle with hosts := [[.waitdone 1, .read 0x018#12]], feed := [.hostTurn 0] }
    (after (step s)).map (fun t => (t.busData, t.hosts)) = some (0x80000000#32, [[.waitdone 1, .read 0x018#12]])
    ∧ (after (step (put 1 Port.reset s))).map (fun t => (t.busData, t.hosts)) = some (0#32, [[.read 0x018#12]]) := by decide

/-- 30_encoding.md R110: a program of two lines, one of them a comment, becomes a host master's operations. -/
theorem test_asm_text :
    (asmText 4 ["; bring-up".toList, " WAITDONE 2".toList, "RD 0x018".toList]).map asmProgram
      = some [.waitdone 2, .read 0x018#12] := by decide

/-- 30_encoding.md R110: a line of text, with a comment; and a port that is not there. -/
theorem test_asm_line :
    asmLine 4 "OPEN.F 0, 0x10000, 16, 16, 0xF0001000 ; vsync".toList
      = some [.openS 0 .frame 0x10000#32 16#32 16#32 0xF0001000#32]
    ∧ asmLine 4 "WAITDONE 4".toList = none := by decide

/-! ### Witnesses: for each obligation with hypotheses, states and operands that meet them, clause by clause -/

theorem test_meets_DecodeOfEncodeIsIdentity :
    (Instr.openCmd 119 .frame).wellFormed = true ∧ (Instr.beat 1).wellFormed = true
    ∧ (Instr.beat (2 ^ 32)).wellFormed = true
    ∧ decode (encode (.beat (2 ^ 32))) = .ok (.beat (2 ^ 32))
    ∧ decode (encode (.mmioWrite 0xFFF#12 .w64 0xFFFFFFFF#32)) = .ok (.mmioWrite 0xFFF#12 .w64 0xFFFFFFFF#32) := by decide

theorem test_meets_DecodedEntryIsItsEncoding :
    decode (.command 119 0x00000101#32) = .ok (.openCmd 119 .frame)
    ∧ decode (.event 0xFFFFFFFF00000080#64) = .ok (.beat (2 ^ 32)) := by decide

theorem test_meets_ModeBitSelectsOpenMode :
    (cwRsvd 0x00000001#32 = 0#23 ∧ cwOp 0x00000001#32 = 0x01#8 ∧ (0x00000001#32).getLsbD 8 = false)
    ∧ (cwRsvd 0x00000101#32 = 0#23 ∧ cwOp 0x00000101#32 = 0x01#8 ∧ (0x00000101#32).getLsbD 8 = true)
    ∧ (cwOp 0x00000107#32 ≠ 0x01#8 ∧ (0x00000107#32).getLsbD 8 = true)
    ∧ decodeCmd 0x00000007#32 = .ok .waitgen ∧ ∀ m, Cmd.waitgen ≠ .openSession m := by
  refine ⟨by decide, by decide, by decide, by decide, fun m => by simp⟩

theorem test_meets_IllegalWordsEndAtOnce :
    (o1.Ready 3 Port.reset ∧ decodeCmd 0x00000008#32 = .error .illegalOpcode
      ∧ (0x170#12).toNat = 0x100 + 0x20 * 3 + 0x10)
    ∧ (o1.Ready 0 Port.reset ∧ o1.session = .opened ∧ o1.mode = .period) := by decide

theorem test_meets_StepRunsTheDecodedInstruction :
    { o1 with feed := [.command 0 0x00000003#32] }.feed = .command 0 0x00000003#32 :: []
    ∧ decode (.command 0 0x00000003#32) = .ok (.start 0) := by decide

theorem test_meets_StepWithoutAnInstruction :
    State.reset.feed = []
    ∧ ({ o1 with feed := [.command 120 3#32] }.feed = .command 120 3#32 :: [] ∧ 120 ≤ 120)
    ∧ ({ o1 with hosts := [[]], feed := [.hostTurn 0] }.hosts[0]? = some [] ∧ o1.hosts[1]? = none)
    ∧ (let s := { o1 with hosts := [[.read 0#12]], feed := [.hostTurn 0] };
      s.feed = .hostTurn 0 :: [] ∧ s.hosts[0]? = some (.read 0#12 :: []) ∧ (HostOp.read 0#12).again s = false)
    ∧ (let s := { put 1 (waiting 6#32) o1 with hosts := [[.waitdone 1]], feed := [.hostTurn 0] };
      s.hosts[0]? = some (.waitdone 1 :: []) ∧ s.ports[1]? = some (waiting 6#32) ∧ (waiting 6#32).busy = true)
    ∧ ({ o1 with feed := [.command 119 0#32] }.feed = .command 119 0#32 :: [] ∧ 119 < 120
      ∧ decodeCmd 0#32 = .error .illegalOpcode)
    ∧ { o1 with feed := [.hostStore 0#32 1#8] }.feed = .hostStore 0#32 1#8 :: []
    ∧ { o1 with feed := [.hostLoad 0#32] }.feed = .hostLoad 0#32 :: []
    ∧ ({ o1 with feed := [.event 0x86#64] }.feed = .event 0x86#64 :: []
      ∧ decodeEvent 0x86#64 = .error .unknownLabel) := by decide

theorem test_meets_CmdWriteIssuesTheCommand :
    (0x110#12).toNat = 0x100 + 0x20 * 0 + 0x10 ∧ (0xFF0#12).toNat = 0x100 + 0x20 * 119 + 0x10
    ∧ decodeCmd 0x00000003#32 = .ok .start := by decide

/-- O6 and O8 of 95_test_vectors.md (accepted), then O10, O2, O3, O5 and O7 (rejected). -/
theorem test_meets_OpenSetsTheSession :
    (let q := args 0xFFFFF000#32 0xFFF#32 0xFFF#32 0#32;
      (put 0 q State.reset).Ready 0 q ∧ State.reset.engine = .idle ∧ q.arg2 ≠ 0#32 ∧ q.arg2.toNat ≤ q.arg1.toNat
      ∧ q.arg0.toNat + q.arg1.toNat ≤ 0xFFFFFFFF ∧ (Mode.frame = .frame → q.arg2 = q.arg1))
    ∧ s2.engine = .running
    ∧ (args 0x1000#32 4096#32 0#32 0#32).arg2 = 0#32
    ∧ (args 0x1000#32 1023#32 1024#32 0#32).arg1.toNat < (args 0x1000#32 1023#32 1024#32 0#32).arg2.toNat
    ∧ 0xFFFFFFFF < (args 0xFFFFF000#32 0x1000#32 1#32 0#32).arg0.toNat + (args 0xFFFFF000#32 0x1000#32 1#32 0#32).arg1.toNat
    ∧ (args 0x10000#32 0x1000#32 0x400#32 0#32).arg2 ≠ (args 0x10000#32 0x1000#32 0x400#32 0#32).arg1 := by decide

theorem test_meets_CloseEndsTheSession :
    (o1.Ready 0 Port.reset ∧ o1.engine = .idle) ∧ (s2.Ready 3 Port.reset ∧ s2.engine = .running) := by decide

/-- A closed session, a running engine, a first chunk with and without a latched swap, and the empty chunk. -/
theorem test_meets_StartArmsTheFirstChunk :
    (State.reset.Ready 0 Port.reset ∧ State.reset.session = .closed) ∧ (s2.Ready 0 Port.reset ∧ s2.engine = .running)
    ∧ (o1.Ready 0 Port.reset ∧ o1.session = .opened ∧ o1.engine = .idle
      ∧ min o1.win.period.toNat (o1.win.fin.toNat - o1.win.start.toNat) ≠ 0)
    ∧ (let s := { frameIdle with pendAddr := 0x20000#32, pendValid := true };
      s.Ready 0 Port.reset ∧ s.session = .opened ∧ s.engine = .idle ∧ s.mode = .frame ∧ s.pendValid = true
      ∧ min s.win.period.toNat ((s.pendAddr + s.win.len).toNat - s.pendAddr.toNat) ≠ 0)
    ∧ (empty.Ready 0 Port.reset ∧ empty.session = .opened ∧ empty.engine = .idle
      ∧ min empty.win.period.toNat (empty.win.fin.toNat - empty.win.start.toNat) = 0) := by decide

theorem test_meets_StopIdlesTheEngine :
    (State.reset.Ready 0 Port.reset ∧ State.reset.ch.active = false)
    ∧ (s2.Ready 0 Port.reset ∧ s2.ch.active = true) := by decide

theorem test_meets_GetoffReportsTheOffset :
    (State.reset.Ready 0 Port.reset ∧ State.reset.session = .closed)
    ∧ (s2.Ready 0 Port.reset ∧ s2.session = .opened) := by decide

/-- V1, V2, V6 and V7 of 95_test_vectors.md. -/
theorem test_meets_ReqaddrLatchesTheSwap :
    (State.reset.Ready 0 Port.reset ∧ State.reset.session = .closed)
    ∧ (o1.Ready 0 Port.reset ∧ o1.session = .opened ∧ o1.mode = .period)
    ∧ (let q := args 0xFFFFF000#32 0#32 0#32 0#32;
      (put 0 q frameIdle).Ready 0 q ∧ frameIdle.session = .opened ∧ frameIdle.mode = .frame
      ∧ 0xFFFFFFFF < q.arg0.toNat + frameIdle.win.len.toNat)
    ∧ (let q := args 0xFFFFEFFF#32 0#32 0#32 0#32;
      (put 0 q frameIdle).Ready 0 q ∧ q.arg0.toNat + frameIdle.win.len.toNat ≤ 0xFFFFFFFF) := by decide

/-- V15, V14, V8, V10 and V11 of 95_test_vectors.md, with the reached test near both its edges. -/
theorem test_meets_WaitgenBlocksOrEnds :
    (State.reset.Ready 0 Port.reset ∧ State.reset.session = .closed)
    ∧ (o1.Ready 0 Port.reset ∧ o1.session = .opened ∧ o1.mode = .period)
    ∧ (let q := args 0x80000001#32 50#32 0#32 0#32;
      (put 0 q frameIdle).Ready 0 q ∧ frameIdle.session = .opened ∧ frameIdle.mode = .frame
      ∧ reached frameIdle.gen q.arg0 = true)
    ∧ (let q := args 0x7FFFFFFF#32 0#32 0#32 0#32;
      (put 0 q frameIdle).Ready 0 q ∧ reached frameIdle.gen q.arg0 = false ∧ q.arg1 = 0#32)
    ∧ (let q := args 1#32 1#32 0#32 0#32;
      (put 0 q frameIdle).Ready 0 q ∧ reached frameIdle.gen q.arg0 = false ∧ q.arg1 ≠ 0#32) := by decide

/-- The first byte and the whole rest of a chunk, in both directions. -/
theorem test_meets_BeatMovesTheNextBytes :
    (small.ch.active = true ∧ 1 ≤ 1 ∧ 1 ≤ small.ch.rem.toNat ∧ small.params.AdmitsRange 0x1000 1
      ∧ small.params.direction = .memToSink)
    ∧ (small.ch.active = true ∧ 1 ≤ 4 ∧ 4 = small.ch.rem.toNat ∧ small.params.AdmitsRange 0x1000 4)
    ∧ (smallIn.ch.active = true ∧ 1 ≤ 4 ∧ 4 ≤ smallIn.ch.rem.toNat ∧ smallIn.params.AdmitsRange 0x1000 4
      ∧ smallIn.params.direction = .sourceToMem) := by decide

/-- A spurious completion, one with and one without a latched swap, and the empty chunk. -/
theorem test_meets_CompleteCommitsAndRearms :
    (let s := { o1 with ch := { o1.ch with done := true } };
      s.ch.done = true ∧ s.notifyPending = .none ∧ s.engine = .idle)
    ∧ (let s := running .period 0x1000#32 4096#32 1024#32 0x1C00#32 1024#32 0#32;
      s.ch.done = true ∧ s.notifyPending = .none ∧ s.engine = .running
      ∧ min s.win.period.toNat (s.win.fin.toNat - s.win.start.toNat) ≠ 0)
    ∧ (frameSwap.ch.done = true ∧ frameSwap.notifyPending = .none ∧ frameSwap.engine = .running
      ∧ frameSwap.mode = .frame ∧ frameSwap.pendValid = true
      ∧ min frameSwap.win.period.toNat ((frameSwap.pendAddr + frameSwap.win.len).toNat - frameSwap.pendAddr.toNat) ≠ 0)
    ∧ (let s := running .period 0#32 0#32 0#32 0#32 0#32 0#32;
      s.ch.done = true ∧ s.notifyPending = .none ∧ s.engine = .running ∧ min s.win.period.toNat 0 = 0) := by decide

theorem test_meets_NotifyCountsAndReleases :
    { o1 with notifyPending := .period }.notifyPending = .period
    ∧ { frameIdle with notifyPending := .frame }.notifyPending = .frame := by decide

theorem test_meets_StrayDoneRaisesTheSignal : State.reset.engine = .idle := rfl

theorem test_meets_DisabledEventPassesItsTurn :
    (o1.ch.active = false ∧ s2.ch.rem.toNat < 1025)
    ∧ s2.ch.done = false ∧ { o1 with notifyPending := .period }.notifyPending ≠ .none
    ∧ o1.notifyPending = .none ∧ s2.engine = .running
    ∧ o1.ports[3]? = some Port.reset ∧ Port.reset.busy = false ∧ o1.ports[4]? = none := by decide

theorem test_meets_ReadOnlyRegistersOfTheBlock :
    exec (.mmioRead 0x02C#12 .w32) o1 = .next { o1 with busData := 0x2000#32 }
    ∧ exec (.mmioRead 0x03C#12 .w32) o1 = .next { o1 with busData := 4096#32 } := ⟨rfl, rfl⟩

/-- H14 of 95_test_vectors.md, and the same with the counter. -/
theorem test_meets_PositionRegistersAreSnapshots :
    let s := { s2 with ch := chan 0x1000#32 1024#32 600#32 }
    let t := { s with params := { Params.reference with hasRemainingCounter := false } }
    (s.params.hasRemainingCounter = true ∧ s.regRead .chRem = 600#32)
    ∧ (t.params.hasRemainingCounter = false ∧ t.regRead .chRem = 0#32) := by decide

/-- V11's PSTATUS and a port's two ends; PSTATUS of each code. -/
theorem test_meets_StatusWordsShowTheirFields :
    (o1.ports[3]? = some Port.reset ∧ (0x178#12).toNat = 0x100 + 0x20 * 3 + 0x18)
    ∧ { waiting 6#32 with code := .illegalCommand }.pstatus = 0x80000003#32
    ∧ { Port.reset with code := .zeroLength }.pstatus = 4#32 ∧ { Port.reset with code := .hwNotResponding }.pstatus = 2#32
    ∧ s2.notifyPending = .none ∧ { s2 with notifyPending := .period }.stateWord = 0x0000004B#32
    ∧ { s2 with notifyPending := .frame }.stateWord = 0x0000008B#32 := by decide

theorem test_meets_PortRegistersReadAndWrite :
    (put 1 (waiting 6#32) o1).ports[1]? = some (waiting 6#32)
    ∧ (0x120#12).toNat = 0x100 + 0x20 * 1 ∧ (0x124#12).toNat = 0x100 + 0x20 * 1 + 0x04
    ∧ (0x128#12).toNat = 0x100 + 0x20 * 1 + 0x08 ∧ (0x12C#12).toNat = 0x100 + 0x20 * 1 + 0x0C
    ∧ (0x134#12).toNat = 0x100 + 0x20 * 1 + 0x14 := by decide

/-- The first and last reserved offset of each kind, with four ports. -/
theorem test_meets_ReservedOffsetsAreRazWi :
    ((0x040#12).toNat % 4 = 0 ∧ (0x0FC#12).toNat % 4 = 0 ∧ 0x040 ≤ (0x0FC#12).toNat ∧ (0x0FC#12).toNat ≤ 0x0FC)
    ∧ ((0x11C#12).toNat - 0x100) % 0x20 = 0x1C
    ∧ (0x100 + 0x20 * o1.ports.length ≤ (0x180#12).toNat ∧ 0x100 + 0x20 * o1.ports.length ≤ (0xFFC#12).toNat)
    ∧ o1.regRead (regOf 0x180#12) = 0#32 ∧ o1.regRead (regOf 0xFFC#12) = 0#32 := by decide

theorem test_meets_BusErrorNamesTheOffset :
    (AccessWidth.w8 ≠ .w32 ∧ (0x003#12).toNat % 4 ≠ 0) ∧ (0xFFC#12).toNat % 4 = 0 := by decide

/-- PE set by NOTIFY, FAULT set by a COMPLETE whose re-arm is refused, a bit cleared and an enable changed by the host. -/
theorem test_meets_IrqSourcesAndLine :
    (after (exec .notify { o1 with notifyPending := .period })).map (fun t => t.irqStatus) = some 0b01#2
    ∧ (after (exec .complete (running .period 0#32 0#32 0#32 0#32 0#32 0#32))).map (fun t => (t.irqStatus, t.faultZl))
      = some (0b10#2, true)
    ∧ (after (exec (.mmioWrite 0x00C#12 .w32 2#32) { o1 with irqStatus := 0b11#2 })).map (fun t => t.irqStatus) = some 0b01#2
    ∧ (after (exec (.mmioWrite 0x010#12 .w32 1#32) { o1 with irqStatus := 0b01#2 })).map (fun t => (t.irqEnable, t.irqLine))
      = some (0b01#2, true) := by decide

/-- T2 and T1 of 95_test_vectors.md, T8 and T9 for the commit, V7's highest end for the swap. -/
theorem test_meets_TrackerAndSwapMoveTheWindow :
    (let w := win 0x1000#32 0x1000#32 1024#32 0x2000#32 0#32; w.fin.toNat ≤ w.pos.toNat)
    ∧ (let w := win 0x1000#32 0x1000#32 1024#32 0x1FFF#32 0#32; w.pos.toNat < w.fin.toNat)
    ∧ (let w := win 0x2000#32 3000#32 1024#32 0x2800#32 952#32;
      w.pos.toNat + w.chunk.toNat = w.fin.toNat ∧ w.trackNext.pos = 0x2000#32 ∧ w.trackNext.chunk = 1024#32)
    ∧ (let w := win 0x1000#32 0x1000#32 1024#32 0x1800#32 1024#32;
      w.pos.toNat + w.chunk.toNat < w.fin.toNat ∧ w.trackNext.pos = 0x1C00#32)
    ∧ { frameIdle with pendAddr := 0xFFFFEFFF#32 }.pendAddr.toNat + frameIdle.win.len.toNat ≤ 0xFFFFFFFF := by decide

theorem test_meets_ArmResetsThenPrograms : o1.win.chunk = 0#32 ∧ s2.win.chunk ≠ 0#32 := by decide

/-- The two edges of plain comparison. -/
theorem test_meets_ReachedComparesSerially :
    ((0x80000004#32).toNat < (5#32).toNat + 2 ^ 31 ∧ (5#32).toNat ≤ (0x80000004#32).toNat + 2 ^ 31
      ∧ (0x80000004#32).toNat + 2 ^ 31 ≠ (5#32).toNat ∧ reached 0x80000004#32 5#32 = true)
    ∧ ((0#32).toNat < (0x7FFFFFFF#32).toNat + 2 ^ 31 ∧ (0x7FFFFFFF#32).toNat ≤ (0#32).toNat + 2 ^ 31
      ∧ reached 0#32 0x7FFFFFFF#32 = false) := by decide

theorem test_meets_PortFinishAndFault : o1.ports[3]? = some Port.reset := by decide

/-- One state and word for each row of 60_exceptions.md R301. -/
theorem test_meets_CausesOfEveryCode :
    (o1.Ready 0 Port.reset ∧ ∀ c, decodeCmd 0x00000000#32 ≠ .ok c)
    ∧ (s2.Ready 0 Port.reset ∧ decodeCmd 0x00000001#32 = .ok (.openSession .period) ∧ s2.engine = .running)
    ∧ decodeCmd 0x00000002#32 = .ok .close
    ∧ (decodeCmd 0x00000003#32 = .ok .start ∧ State.reset.session = .closed)
    ∧ (empty.Ready 0 Port.reset ∧ empty.session = .opened ∧ empty.engine = .idle ∧ empty.startWindow.arm.2 = .armZero)
    ∧ decodeCmd 0x00000004#32 = .ok .stop ∧ decodeCmd 0x00000005#32 = .ok .getoff
    ∧ (decodeCmd 0x00000006#32 = .ok .reqaddr ∧ o1.session = .opened ∧ o1.mode = .period)
    ∧ (let q := args 0xFFFFF000#32 0#32 0#32 0#32;
      (put 0 q frameIdle).Ready 0 q ∧ 0xFFFFFFFF < q.arg0.toNat + frameIdle.win.len.toNat)
    ∧ decodeCmd 0x00000007#32 = .ok .waitgen
    ∧ ((o1.issue 0 0#32).ports[0]? = some { Port.reset with code := .illegalCommand }) := by
  refine ⟨⟨by decide, fun c => ?_⟩, by decide⟩
  rw [show decodeCmd 0x00000000#32 = .error .illegalOpcode by decide]
  exact fun h => by cases h

theorem test_inv_s2 : s2.Inv :=
  ⟨by decide, by decide, by decide, by decide, by decide, by decide, by decide, by decide, by decide⟩

theorem test_inv_o1 : o1.Inv :=
  ⟨by decide, by decide, by decide, by decide, by decide, by decide, by decide, by decide, by decide⟩

theorem test_inv_small : small.Inv :=
  ⟨by decide, by decide, by decide, by decide, by decide, by decide, by decide, by decide, by decide⟩

theorem test_inv_frameSwap : frameSwap.Inv :=
  ⟨by decide, by decide, by decide, by decide, by decide, by decide, by decide, by decide, by decide⟩

/-- The invariant with a beat as the next step. -/
theorem test_meets_EveryStepKeepsTheInvariant :
    { s2 with feed := [.event 0x80#64] }.Inv ∧ ∃ t, step { s2 with feed := [.event 0x80#64] } = .next t :=
  ⟨⟨by decide, by decide, by decide, by decide, by decide, by decide, by decide, by decide, by decide⟩, _, rfl⟩

theorem test_meets_ParametersNeverChange : ∃ t, step { s2 with feed := [.event 0x85#64] } = .next t := ⟨_, rfl⟩

/-- OPEN, START, STOP, CLOSE and the refused re-arm each change what the statement says they write. -/
theorem test_meets_WritersOfTheEngineState :
    (after (exec (.openCmd 0 .frame) (put 0 (args 0#32 8#32 8#32 0#32) State.reset))).map (fun t => (t.session, t.mode))
      = some (.opened, .frame)
    ∧ (after (exec (.close 0) o1)).map (fun t => t.session) = some .closed
    ∧ (after (exec (.start 0) o1)).map (fun t => t.engine) = some .running
    ∧ (after (exec (.stop 0) s2)).map (fun t => t.engine) = some .idle
    ∧ (after (exec .complete (running .period 0#32 0#32 0#32 0#32 0#32 0#32))).map (fun t => (t.engine, t.faultZl))
      = some (.idle, true) := by decide

theorem test_meets_WritersOfTheWindow :
    (after (exec (.start 0) o1)).map (fun t => decide (t.win ≠ o1.win)) = some true
    ∧ (Instr.start 0).issues = some (0, .start) ∧ o1.mode = .period
    ∧ (after (exec .complete frameSwap)).map (fun t => decide (t.win.start ≠ frameSwap.win.start)) = some true := by decide

theorem test_meets_WritersOfTheChannel :
    (after (exec (.beat 4) small)).map (fun t => decide (t.ch ≠ small.ch)) = some true
    ∧ (Instr.stop 0).issues = some (0, .stop)
    ∧ (after (exec .strayDone o1)).map (fun t => decide (t.ch ≠ o1.ch)) = some true := by decide

theorem test_meets_WritersOfTheCounters :
    let s := { frameIdle with notifyPending := .frame, periodCount := 0xFFFFFFFF#32, gen := 0xFFFFFFFF#32 }
    (after (exec .notify s)).map (fun t => (t.periodCount, t.gen)) = some (0#32, 0#32)
    ∧ (after (exec .reset s)).map (fun t => (t.periodCount, t.gen)) = some (0#32, 0#32) := by decide

theorem test_meets_WritersOfLatchAndFaultBit :
    (after (exec (.reqaddr 0) (put 0 (args 0x20000#32 0#32 0#32 0#32) frameIdle))).map (fun t => (t.pendAddr, t.pendValid))
      = some (0x20000#32, true)
    ∧ (after (exec .complete frameSwap)).map (fun t => t.pendValid) = some false
    ∧ (after (exec .complete (running .period 0#32 0#32 0#32 0#32 0#32 0#32))).map (fun t => t.faultZl) = some true
    ∧ (after (exec .reset { o1 with faultZl := true })).map (fun t => t.faultZl) = some false := by decide

theorem test_meets_ArgumentsAreWrittenByTheHost :
    o1.ports[0]? = some Port.reset
    ∧ (after (exec (.mmioWrite 0x10C#12 .w32 7#32) o1)).map (fun t => t.ports[0]?)
      = some (some { Port.reset with arg3 := 7#32 }) := by decide

theorem test_meets_PortsKeepTheirOwnResults :
    (after (exec (.close 0) s2)).map (fun t => t.ports[0]?) = some (some { Port.reset with code := .invalidConfig })
    ∧ (after (exec .notify (put 1 (waiting 1#32) { frameIdle with notifyPending := .frame }))).map
        (fun t => (t.ports[1]?).map fun r => (r.result, r.busy)) = some (some (1#32, false)) := by decide

/-- V12 of 95_test_vectors.md, and a port slot that is not there. -/
theorem test_meets_BusyPortDropsCommands :
    ((put 1 (waiting 6#32) s2).ports[1]? = some (waiting 6#32) ∧ (waiting 6#32).busy = true
      ∧ (0x130#12).toNat = 0x100 + 0x20 * 1 + 0x10)
    ∧ (s2.ports[4]? = none ∧ (0x190#12).toNat = 0x100 + 0x20 * 4 + 0x10) := by decide

theorem test_meets_CommandFrame :
    (∃ t, exec (Cmd.getoff.onPort 0) s2 = .next t) ∧ (∃ t, exec (Cmd.stop.onPort 0) s2 = .next t)
    ∧ s2.ports[0]? = some Port.reset := ⟨⟨_, rfl⟩, ⟨_, rfl⟩, rfl⟩

theorem test_meets_EventFrame :
    (∃ t, exec .complete frameSwap = .next t) ∧ (∃ t, exec .notify { o1 with notifyPending := .period } = .next t)
    ∧ (∃ t, exec (.mmioRead 0x000#12 .w32) o1 = .next t)
    ∧ (∃ t, exec (.waitTimeout 1) (put 1 (waiting 6#32) o1) = .next t) ∧ ∃ t, exec .strayDone o1 = .next t :=
  ⟨⟨_, rfl⟩, ⟨_, rfl⟩, ⟨_, rfl⟩, ⟨_, rfl⟩, ⟨_, rfl⟩⟩

theorem test_meets_BeatFrame :
    (∃ t, exec (.beat 4) small = .next t) ∧ small.params.direction = .memToSink
    ∧ (∃ t, exec (.beat 4) smallIn = .next t) ∧ smallIn.params.direction = .sourceToMem :=
  ⟨⟨_, rfl⟩, rfl, ⟨_, rfl⟩, rfl⟩

/-- Idle with half of a stray chunk and its completion ahead, and a host that reads WIN_POS and stops once more. -/
theorem test_meets_StoppedEngineNeverAdvances :
    let s := { o1 with
      ch := chan 0x1000#32 4#32 4#32
      hosts := [[.read 0x01C#12, .write 0x110#12 0x00000004#32]]
      feed := [encode (.beat 2), encode .strayDone, encode .complete, .hostTurn 0] }
    s.engine = .idle ∧ (∀ e ∈ s.feed, e.restarts = false) ∧ s.hostsRestart = false
    ∧ (after (core.run 4 s)).map (fun t => (t.engine, t.win.pos, t.ch.rem, t.notifyPending))
      = some (.idle, 0x1000#32, 2#32, .none) := by decide

/-- T10 and T12 of 95_test_vectors.md, five chunks each: a remainder, and the longest buffer. -/
theorem test_meets_ChunkSequenceRepeats :
    (let w := win 0x1000#32 10#32 3#32 0x1000#32 0#32;
      0 < w.period.toNat ∧ w.period.toNat ≤ w.len.toNat ∧ w.fin.toNat = w.start.toNat + w.len.toNat
      ∧ (List.range 5).map (fun n => (Window.trackNext^[n] (Window.nextChunk w)).chunk) = [3#32, 3#32, 3#32, 1#32, 3#32])
    ∧ (let w := win 0#32 0xFFFFFFFF#32 0x80000000#32 0#32 0#32;
      w.period.toNat ≤ w.len.toNat ∧ w.fin.toNat = w.start.toNat + w.len.toNat
      ∧ (List.range 3).map (fun n => (Window.trackNext^[n] (Window.nextChunk w)).chunk)
        = [0x80000000#32, 0x7FFFFFFF#32, 0x80000000#32]) := by decide

/-- G10 and G8 of 95_test_vectors.md: the clamp does not fire, then fires. -/
theorem test_meets_OffsetStaysInRangeByTheClamp :
    let s := running .period 0x2000#32 3000#32 1024#32 0x2800#32 952#32 1#32
    let t := running .period 0x2000#32 3000#32 1024#32 0x2800#32 952#32 0#32
    (s.Inv ∧ s.session = .opened ∧ s.Ready 0 Port.reset ∧ s.rawOffset = 2999)
    ∧ (t.Inv ∧ t.session = .opened ∧ t.Ready 0 Port.reset ∧ t.rawOffset = 3000) :=
  ⟨⟨⟨by decide, by decide, by decide, by decide, by decide, by decide, by decide, by decide, by decide⟩, by decide,
    by decide⟩,
   ⟨⟨by decide, by decide, by decide, by decide, by decide, by decide, by decide, by decide, by decide⟩, by decide,
    by decide⟩⟩

/-- G6 and G7 of 95_test_vectors.md for the COMPLETE. -/
theorem test_meets_OffsetIsMonotoneWithinACycle :
    (small.Inv ∧ small.engine = .running ∧ ∃ t, exec (.beat 4) small = .next t)
    ∧ (let s := running .period 0x1000#32 4096#32 1024#32 0x1400#32 1024#32 0#32;
      s.Inv ∧ s.engine = .running ∧ s.ch.done = true ∧ s.notifyPending = .none ∧ s.mode = .period
      ∧ s.win.pos.toNat + s.win.chunk.toNat < s.win.fin.toNat ∧ s.offset = 2048
      ∧ (after (exec .complete s)).map State.offset = some 2048 ∧ s.params.hasRemainingCounter = true) :=
  ⟨⟨test_inv_small, rfl, _, rfl⟩,
   ⟨by decide, by decide, by decide, by decide, by decide, by decide, by decide, by decide, by decide⟩, by decide⟩

theorem test_meets_FrameModeChunksAreFrames :
    frameSwap.Inv ∧ frameSwap.session = .opened ∧ frameSwap.mode = .frame ∧ frameSwap.engine = .running :=
  ⟨test_inv_frameSwap, by decide⟩

/-- A frame of four bytes, of which two are moved, and its whole cycle; and a frame that is moved, with the notification of
the one before still pending, whose token is GEN + 2. -/
theorem test_meets_FrameCycleConfirmsTheSwap :
    let q := args 0x20000#32 0#32 0#32 0#32
    let s := put 0 q { running .frame 0x10000#32 4#32 4#32 0x10000#32 4#32 2#32 with gen := 5#32 }
    let u := put 0 q
      { running .frame 0x10000#32 4#32 4#32 0x10000#32 4#32 0#32 with gen := 5#32, notifyPending := .frame }
    (s.Inv ∧ s.Ready 0 q ∧ s.session = .opened ∧ s.mode = .frame ∧ s.engine = .running
      ∧ s.notifyPending = .none ∧ s.ch.active = true ∧ 0 < 120 ∧ q.arg0.toNat + s.win.len.toNat ≤ 0xFFFFFFFF
      ∧ s.params.AdmitsRange s.ch.next s.ch.rem.toNat
      ∧ (after (core.run 4
          { s with feed := [encode (.reqaddr 0), encode (.beat s.ch.rem.toNat), encode .complete, encode .notify] })).map
          (fun t => (t.ch.src, t.gen, (t.ports[0]?).map Port.result)) = some (0x20000#32, 6#32, some 6#32))
    ∧ (u.Inv ∧ u.Ready 0 q ∧ u.session = .opened ∧ u.mode = .frame ∧ u.engine = .running
      ∧ u.notifyPending = .frame ∧ u.ch.active = false ∧ u.params.AdmitsRange u.ch.next u.ch.rem.toNat
      ∧ (after (core.run 4
          { u with feed := [encode (.reqaddr 0), encode .notify, encode .complete, encode .notify] })).map
          (fun t => (t.ch.src, t.gen, (t.ports[0]?).map Port.result)) = some (0x20000#32, 7#32, some 7#32)) :=
  ⟨⟨⟨by decide, by decide, by decide, by decide, by decide, by decide, by decide, by decide, by decide⟩, by decide⟩,
   ⟨⟨by decide, by decide, by decide, by decide, by decide, by decide, by decide, by decide, by decide⟩, by decide⟩⟩

/-! ### A weakly fair run: a stray chunk, a pending notification and a wait, all ended by the block's own agents -/

/-- The schedule: the rest of the chunk, then NOTIFY, COMPLETE and the timeout of port 1, and COMPLETE ever after. -/
def fairItems : Nat → Entry
  | 0 => encode (.beat 4)
  | 1 => encode .notify
  | 2 => encode .complete
  | 3 => encode (.waitTimeout 1)
  | _ + 4 => encode .complete

theorem fairItems_end : ∀ m, 4 ≤ m → (fairItems m).byHost = false
  | m + 4, _ => show (encode .complete).byHost = false by decide

/-- The state before the first item. -/
def fairStart : State :=
  put 1 (waiting 6#32) { o1 with ch := chan 0x1000#32 4#32 4#32, notifyPending := .period }

/-- The states of the run, each the one that the step leaves. -/
def fairRun : Nat → State
  | 0 => fairStart
  | n + 1 =>
    match step ((fairRun n).withEntry (fairItems n)) with
    | .next t => t
    | _ => fairRun n

theorem fairRun_over (n : Nat) : fairRun (n + 4) = fairRun 4 := by
  induction n with
  | zero => rfl
  | succ n ih =>
    show (match step ((fairRun (n + 4)).withEntry (fairItems (n + 4))) with
      | .next t => t
      | _ => fairRun (n + 4)) = fairRun 4
    rw [ih]
    rfl

theorem fairRun_isRun : IsRun fairItems fairRun := by
  intro n
  match n with
  | 0 => rfl
  | 1 => rfl
  | 2 => rfl
  | 3 => rfl
  | n + 4 =>
    rw [fairRun_over n, show n + 4 + 1 = (n + 1) + 4 by omega, fairRun_over (n + 1)]
    rfl

theorem fairRun_fair : WeaklyFair fairItems fairRun := by
  intro f n h
  have h4 := h (n + 4) (by omega)
  rw [fairRun_over n] at h4
  have hq : (fairRun 4).ports.length = 4 ∧ ∀ p, p < 4 → (fairRun 4).waitTimeoutEnabled p = false := by decide
  cases f with
  | waitTimeout p =>
    by_cases hp : p < 4
    · exact absurd ((hq.2 p hp).symm.trans h4) (by decide)
    · simp only [FairStep.enabled, State.waitTimeoutEnabled,
        List.getElem?_eq_none (show (fairRun 4).ports.length ≤ p by omega)] at h4
      cases h4
  | beat => exact absurd h4 (by decide)
  | complete => exact absurd h4 (by decide)
  | notify => exact absurd h4 (by decide)

/-- The invariant at its start, with a BUSY port. -/
theorem test_meets_WaitTimeoutEndsTheWait :
    ((put 1 (waiting 6#32) frameIdle).ports[1]? = some (waiting 6#32) ∧ (waiting 6#32).busy = true)
    ∧ IsRun fairItems fairRun ∧ WeaklyFair fairItems fairRun ∧ (fairRun 0).ports[1]? = some (waiting 6#32)
    ∧ ((fairRun 4).ports[1]?).map Port.pstatus = some 0#32 :=
  ⟨by decide, fairRun_isRun, fairRun_fair, by decide, by decide⟩

/-- Quiescence, a run that is over, and the fair run's notification, completion signal and chunk. -/
theorem test_meets_QuiescenceAndFairProgress :
    State.reset.Quiescent ∧ (o1.fairEnabled = false ∧ o1.Inv) ∧ (s2.Inv ∧ s2.engine = .running)
    ∧ { o1 with hosts := [[]] }.RunOver ∧ { o1 with hosts := [[]] }.Final
    ∧ (Entry.command 0 3#32 ∈ { State.reset with feed := [.command 0 3#32] }.feed
      ∧ ¬ { State.reset with feed := [.command 0 3#32] }.RunOver)
    ∧ (¬ { o1 with feed := [encode (.mmioRead 0x01C#12 .w32)] }.RunOver ∧ ¬ { o1 with hosts := [[.read 0#12]] }.RunOver
      ∧ ¬ { o1 with feed := [.hostStore 0#32 1#8] }.RunOver ∧ ¬ { o1 with feed := [.hostLoad 0#32] }.RunOver)
    ∧ (let s := { o1 with hosts := [[]], feed := [encode .reset, .hostTurn 0] };
      s.RunOver ∧ decode (encode .reset) ≠ .ok .strayDone ∧ (after (step s)).isSome = true)
    ∧ (RunEndsAt fairItems fairRun 4 ∧ decode (encode .complete) ≠ .ok .strayDone)
    ∧ (let s := { o1 with faultZl := true };
      s.RunOver ∧ s.faultZl = true ∧ decode (encode .strayDone) ≠ .ok .reset
      ∧ after (step (s.withEntry (encode .strayDone))) = some { s with ch := { s.ch with done := true } })
    ∧ IsRun fairItems fairRun ∧ WeaklyFair fairItems fairRun
    ∧ (fairRun 0).notifyPending ≠ .none ∧ (fairRun 1).ch.done = true ∧ (fairRun 3).ch.done = false
    ∧ (fairRun 0).Inv ∧ (fairRun 0).params.holes = [] ∧ (fairRun 0).ch.active = true ∧ (fairRun 4).RunOver :=
  ⟨by decide, ⟨by decide, test_inv_o1⟩, ⟨test_inv_s2, by decide⟩, by decide, by decide, by decide, by decide,
   by decide, ⟨⟨by decide, fairItems_end⟩, by decide⟩, by decide, fairRun_isRun, fairRun_fair, by decide,
   by decide, by decide,
   ⟨by decide, by decide, by decide, by decide, by decide, by decide, by decide, by decide, by decide⟩, by decide,
   by decide, by decide⟩

/-- `small` with a hole at its third byte, and at that byte for a host. -/
theorem test_meets_AbsentMemoryIsStuck :
    let s := { small with params := { Params.reference with holes := [(0x1002, 0x2000)] } }
    s.ch.active = true ∧ 1 ≤ 3 ∧ 3 ≤ s.ch.rem.toNat ∧ 2 < 3 ∧ s.params.AdmitsRange s.ch.next 2
    ∧ s.params.admits (s.ch.next + 2) = false ∧ s.params.admits (0x1FFF#32).toNat = false
    ∧ s.params.admits 0x2000 = true := by decide

/-- The first and last byte of an armed chunk are races, the byte after it is not; COMPLETE and START clear the marks, a beat
keeps them. -/
theorem test_meets_HostAccessRacesTheChannel :
    small.params.admits 0x1000 = true ∧ small.unmoved 0x1000 = true ∧ small.unmoved 0x1003 = true
    ∧ small.unmoved 0x1004 = false ∧ small.params.direction = .memToSink
    ∧ smallIn.unmoved 0x1000 = true ∧ smallIn.params.direction = .sourceToMem
    ∧ (frameSwap.ch.done = true ∧ frameSwap.notifyPending = .none ∧ frameSwap.engine = .running
      ∧ (after (exec .complete { frameSwap with raced := [0x10000] })).map State.raced = some [])
    ∧ ((Instr.start 0).issues = some (0, .start) ∧ o1.engine = .idle ∧ o1.ch.active = false
      ∧ (after (exec (.start 0) { o1 with raced := [0x1000] })).map (fun t => (t.engine, t.ch.active, t.raced))
        = some (.running, true, []))
    ∧ (after (exec (.beat 1) { small with raced := [0x1003] })).map State.raced = some [0x1003] := by decide

/-- Port 3's OPEN statement, run whole by host master 1; and a WAITDONE of a BUSY port and of one that is not. -/
theorem test_meets_AssembledProgramsRunTheirAccesses :
    (let s := State.withProgram [.openS 3 .period 0x1000#32 4096#32 1024#32 0xF0000000#32, .ackpe]
        { State.reset with hosts := [[]] };
      s.ports[3]? = some Port.reset
      ∧ s.hosts[1]? = some (asmProgram [.openS 3 .period 0x1000#32 4096#32 1024#32 0xF0000000#32]
          ++ [.write 0x00C#12 1#32])
      ∧ (after (core.run 5 { s with feed := List.replicate 5 (.hostTurn 1) })).map
        (fun t => (t.session, t.win.fin, (t.ports[3]?).map Port.pstatus, t.hosts))
        = some (.opened, 0x2000#32, some 0#32, [[], [.write 0x00C#12 1#32]]))
    ∧ (let s := State.withProgram [.waitdone 1] (put 1 (waiting 6#32) frameIdle);
      s.ports[1]? = some (waiting 6#32) ∧ s.hosts[0]? = some (asmProgram [.waitdone 1] ++ [])
      ∧ (waiting 6#32).pstatus.getLsbD 31 = true ∧ Port.reset.pstatus.getLsbD 31 = false) := by decide

end Sys2Proof.Tests
end

section
/-! # The registers

The rules of a 32-bit register access, stated once over the register that the offset names, and the obligations on the
register map (10_state.md R35 to R50) assembled from them. -/

namespace Sys2Proof.Machine

/-! ### A 32-bit access at an aligned offset -/

theorem accessAdmitted_w32 {off : BitVec 12} (ha : off.toNat % 4 = 0) : accessAdmitted off .w32 = true := by
  simp [accessAdmitted, ha]

/-- 45_host_interface.md R271, past the check of R78. -/
theorem exec_mmioRead_w32 {off : BitVec 12} {r : Reg} (ha : off.toNat % 4 = 0) (hr : regOf off = r) (s : State) :
    exec (.mmioRead off .w32) s = .next { s with busData := s.regRead r } := by
  subst hr
  exact if_pos (accessAdmitted_w32 ha)

/-- 45_host_interface.md R272, past the check of R78. -/
theorem exec_mmioWrite_w32 {off : BitVec 12} {r : Reg} (ha : off.toNat % 4 = 0) (hr : regOf off = r) (v : Word)
    (s : State) : exec (.mmioWrite off .w32 v) s = .next (s.regWrite r v) := by
  subst hr
  exact if_pos (accessAdmitted_w32 ha)

/-- The two accesses to a register that reads `x` and ignores writes. -/
theorem exec_mmio_readOnly {off : BitVec 12} {r : Reg} {s : State} {x : Word} (ha : off.toNat % 4 = 0)
    (hr : regOf off = r) (hx : s.regRead r = x) (hw : ∀ v, s.regWrite r v = s) :
    exec (.mmioRead off .w32) s = .next { s with busData := x }
    ∧ ∀ v, exec (.mmioWrite off .w32 v) s = .next s := by
  refine ⟨?_, fun v => ?_⟩
  · rw [exec_mmioRead_w32 ha hr, hx]
  · rw [exec_mmioWrite_w32 ha hr, hw]

/-! ### The ports -/

theorem State.updPort_eq_set {s : State} {p : Nat} {q : Port} (hq : s.ports[p]? = some q) (f : Port → Port) :
    s.updPort p f = { s with ports := s.ports.set p (f q) } := by
  simp [State.updPort, List.modify_eq_set_getElem?, hq]

theorem State.updPort_absent {s : State} {p : Nat} (hp : s.ports[p]? = none) (f : Port → Port) : s.updPort p f = s := by
  simp [State.updPort, List.modify_eq_set_getElem?, hp]

theorem State.portRead_present {s : State} {p : Nat} {q : Port} (hq : s.ports[p]? = some q) (f : Port → Word) :
    s.portRead p f = f q := by
  simp [State.portRead, hq]

theorem State.portRead_absent {s : State} {p : Nat} (hp : s.ports[p]? = none) (f : Port → Word) :
    s.portRead p f = 0#32 := by
  simp [State.portRead, hp]

/-- A command word written to a slot without a port is dropped (10_state.md R46). -/
theorem State.issue_absent {s : State} {p : Nat} (hp : s.ports[p]? = none) (w : Word) : s.issue p w = s :=
  State.onPort_dropped _ (by simp [hp])

/-- A legal command word runs its command's rule (45_host_interface.md R275). -/
theorem State.issue_of_decode {w : Word} {c : Cmd} (hw : decodeCmd w = .ok c) (s : State) (p : Nat) :
    s.issue p w = s.onPort p (runCmd p c) := by
  have hrule : issueRule p w = runCmd p c := by
    funext q t
    simp [issueRule, hw]
  rw [State.issue, hrule]

/-- The instruction of a command runs that command's rule on its port. -/
theorem exec_onPort (p : Nat) (c : Cmd) (s : State) : exec (c.onPort p) s = .next (s.onPort p (runCmd p c)) := by
  cases c <;> rfl

/-- Every register of a slot without a port reads 0 (10_state.md R46). -/
theorem State.regRead_absentPort {s : State} {p : Nat} (hp : s.ports[p]? = none) (sub : Nat) :
    s.regRead (portReg p sub) = 0#32 := by
  unfold portReg
  split_ifs <;> simp [State.regRead, State.portRead_absent hp]

/-- Every register of a slot without a port ignores writes (10_state.md R46). -/
theorem State.regWrite_absentPort {s : State} {p : Nat} (hp : s.ports[p]? = none) (sub : Nat) (v : Word) :
    s.regWrite (portReg p sub) v = s := by
  unfold portReg
  split_ifs <;> simp [State.regWrite, State.updPort_absent hp, State.issue_absent hp]

/-- The register at ARG `k`'s offset within a slot (10_state.md R35). -/
theorem portReg_arg (p : Nat) (k : Fin 4) : portReg p (4 * k) = .arg p k := by
  fin_cases k <;> rfl

/-- ARG `k` of an existing port reads back and takes what is written (10_state.md R47). -/
theorem exec_mmio_arg {s : State} {p : Nat} {q : Port} (hq : s.ports[p]? = some q) (k : Fin 4) {off : BitVec 12}
    (ho : off.toNat = 0x100 + 0x20 * p + 4 * k) :
    exec (.mmioRead off .w32) s = .next { s with busData := q.arg k }
    ∧ ∀ v, exec (.mmioWrite off .w32 v) s = .next { s with ports := s.ports.set p (q.setArg k v) } := by
  have ha : off.toNat % 4 = 0 := by omega
  have hr : regOf off = .arg p k := (regOf_port off p _ ho (by omega)).trans (portReg_arg p k)
  refine ⟨?_, fun v => ?_⟩
  · rw [exec_mmioRead_w32 ha hr, State.regRead, State.portRead_present hq]
  · rw [exec_mmioWrite_w32 ha hr, State.regWrite, State.updPort_eq_set hq]

/-! ### The fields of the status words -/

@[simp] theorem bit_getElem_zero (b : Bool) : (bit b)[0] = b := by
  simp [bit]

@[simp] theorem Session.toBit_getElem_zero (x : Session) : x.toBit[0] = true ↔ x = .opened := by
  cases x <;> decide

@[simp] theorem EngineState.toBit_getElem_zero (x : EngineState) : x.toBit[0] = true ↔ x = .running := by
  cases x <;> decide

@[simp] theorem Direction.toBit_getElem_zero (x : Direction) : x.toBit[0] = true ↔ x = .sourceToMem := by
  cases x <;> decide

@[simp] theorem bitOfMode_getElem_zero (m : Mode) : (bitOfMode m)[0] = true ↔ m = .frame := by
  cases m <;> decide

/-- The two flags of CAPS (10_state.md R37). -/
theorem State.capsWord_flags (s : State) :
    (s.capsWord.getLsbD 0 = true ↔ s.params.hasRemainingCounter = true)
    ∧ (s.capsWord.getLsbD 1 = true ↔ s.params.direction = .sourceToMem) := by
  unfold State.capsWord
  refine ⟨?_, ?_⟩ <;> (repeat rw [BitVec.getLsbD_append]) <;> simp

/-- The wider fields of CAPS (10_state.md R37), from the reserved bits 7..2 up. -/
theorem State.capsWord_fields (s : State) :
    s.capsWord.extractLsb' 2 6 = 0#6 ∧ s.capsWord.extractLsb' 8 8 = BitVec.ofNat 8 s.ports.length
    ∧ s.capsWord.extractLsb' 16 8 = BitVec.ofNat 8 Config.addrW ∧ s.capsWord.extractLsb' 24 8 = Config.version := by
  unfold State.capsWord
  refine ⟨?_, ?_, ?_, ?_⟩
  · iterate 2 rw [BitVec.extractLsb'_append_eq_of_le (by decide)]
    exact BitVec.extractLsb'_append_eq_right
  · iterate 3 rw [BitVec.extractLsb'_append_eq_of_le (by decide)]
    exact BitVec.extractLsb'_append_eq_right
  · iterate 4 rw [BitVec.extractLsb'_append_eq_of_le (by decide)]
    exact BitVec.extractLsb'_append_eq_right
  · iterate 4 rw [BitVec.extractLsb'_append_eq_of_le (by decide)]
    exact BitVec.extractLsb'_append_eq_left

/-- The flags of STATE (10_state.md R38), from bit 0 up. -/
theorem State.stateWord_flags (s : State) :
    (s.stateWord.getLsbD 0 = true ↔ s.session = .opened) ∧ (s.stateWord.getLsbD 1 = true ↔ s.engine = .running)
    ∧ (s.stateWord.getLsbD 2 = true ↔ s.mode = .frame) ∧ s.stateWord.getLsbD 3 = s.ch.active
    ∧ s.stateWord.getLsbD 4 = s.ch.done ∧ s.stateWord.getLsbD 5 = s.pendValid ∧ s.stateWord.getLsbD 8 = s.faultZl := by
  unfold State.stateWord
  refine ⟨?_, ?_, ?_, ?_, ?_, ?_, ?_⟩ <;> (repeat rw [BitVec.getLsbD_append]) <;> simp

/-- NOTIFY_PENDING in STATE (10_state.md R38), above its six lowest flags. -/
theorem State.stateWord_notify (s : State) : s.stateWord.extractLsb' 6 2 = s.notifyPending.bits := by
  unfold State.stateWord
  iterate 6 rw [BitVec.extractLsb'_append_eq_of_le (by decide)]
  exact BitVec.extractLsb'_append_eq_right

/-- The reserved bits of STATE (10_state.md R38), above its eight fields. -/
theorem State.stateWord_reserved (s : State) : s.stateWord.extractLsb' 9 23 = 0#23 := by
  unfold State.stateWord
  iterate 7 rw [BitVec.extractLsb'_append_eq_of_le (by decide)]
  exact BitVec.extractLsb'_append_eq_left

/-- The fields of PSTATUS (10_state.md R50). -/
theorem Port.pstatus_fields (q : Port) :
    q.pstatus.getLsbD 31 = q.busy ∧ q.pstatus.extractLsb' 4 27 = 0#27 ∧ q.pstatus.extractLsb' 0 4 = q.code.bits := by
  unfold Port.pstatus
  refine ⟨?_, ?_, BitVec.extractLsb'_append_eq_right⟩
  · repeat rw [BitVec.getLsbD_append]
    simp
  · rw [BitVec.extractLsb'_append_eq_of_le (by decide)]
    exact BitVec.extractLsb'_append_eq_right

/-- A zero-extended register. -/
theorem zero_append_irq (b : BitVec 2) : (0#30 ++ b : Word) = b.setWidth 32 := by
  simp [BitVec.setWidth_eq_append]

/-- Which bits a write-1-to-clear leaves (10_state.md R39). -/
theorem clearOnes_getLsbD (b : BitVec 2) (v : Word) {j : Nat} (hj : j < 2) :
    (clearOnes b v).getLsbD j = (b.getLsbD j && !v.getLsbD j) := by
  simp [clearOnes, hj]

/-- 10_state.md R46: no block register stands at 0x040 or above. -/
theorem blockReg_reserved {n : Nat} (hn : 0x40 ≤ n) : blockReg n = .reserved := by
  have hne (m : Nat) (hm : m < 0x40) : n ≠ m := by omega
  simp [blockReg, hne]

/-! ### The obligations on the register map -/

/-- Settles O8: the write and the command both run the command's rule on the port. -/
theorem cmdWriteIssuesTheCommand : Obligations.CmdWriteIssuesTheCommand := by
  intro s p off ho
  have ha : off.toNat % 4 = 0 := by omega
  have hr : regOf off = .cmd p := regOf_port off p 0x10 ho (by decide)
  refine ⟨fun w c hw => ?_, exec_mmioRead_w32 ha hr s⟩
  rw [exec_mmioWrite_w32 ha hr, exec_onPort, ← State.issue_of_decode hw]
  rfl

/-- Settles O26: each word is read whole, and its fields are those of its layout. -/
theorem statusWordsShowTheirFields : Obligations.StatusWordsShowTheirFields := by
  refine ⟨fun s => ?_, fun s => ?_, fun s p q off hq ho => ?_⟩
  · obtain ⟨hread, hwrite⟩ := exec_mmio_readOnly (off := 0x004#12) (s := s) (by decide) rfl rfl fun _ => rfl
    obtain ⟨hrem, hdir⟩ := s.capsWord_flags
    obtain ⟨hrsvd, hports, haddr, hver⟩ := s.capsWord_fields
    exact ⟨_, hread, hrem, hdir, hrsvd, hports, haddr, hver, hwrite⟩
  · obtain ⟨hread, hwrite⟩ := exec_mmio_readOnly (off := 0x008#12) (s := s) (by decide) rfl rfl fun _ => rfl
    obtain ⟨hsession, hengine, hmode, hactive, hdone, hvalid, hfault⟩ := s.stateWord_flags
    have hnotify : ∀ n, s.notifyPending = n → s.stateWord.extractLsb' 6 2 = n.bits := fun n hn =>
      hn ▸ s.stateWord_notify
    exact ⟨_, hread, hsession, hengine, hmode, hactive, hdone, hvalid, hnotify _, hnotify _, hnotify _, hfault,
      s.stateWord_reserved, hwrite⟩
  · have hr : regOf off = .pstatus p := regOf_port off p 0x18 ho (by decide)
    obtain ⟨hread, hwrite⟩ := exec_mmio_readOnly (by omega) hr (State.portRead_present hq _) fun _ => rfl
    obtain ⟨hbusy, hrsvd, hbits⟩ := q.pstatus_fields
    have hcode : ∀ c, q.code = c → q.pstatus.extractLsb' 0 4 = c.bits := fun c hc => hc ▸ hbits
    exact ⟨_, hread, hbusy, hrsvd, hcode _, hcode _, hcode _, hcode _, hcode _, hwrite⟩

/-- Settles O27: the reads are zero extensions, and the writes are taken bit by bit. -/
theorem irqRegistersReadAndWrite : Obligations.IrqRegistersReadAndWrite := by
  intro s v
  have ha : (0x00C#12).toNat % 4 = 0 := by decide
  have ha' : (0x010#12).toNat % 4 = 0 := by decide
  refine ⟨?_, ?_, ⟨_, exec_mmioWrite_w32 ha rfl v s, fun j hj => clearOnes_getLsbD _ _ hj⟩,
    ⟨_, exec_mmioWrite_w32 ha' rfl v s, fun j hj => ?_⟩⟩
  · rw [← zero_append_irq]
    exact exec_mmioRead_w32 ha rfl s
  · rw [← zero_append_irq]
    exact exec_mmioRead_w32 ha' rfl s
  · simp [hj]

/-- Settles O28: the ARG registers are one rule at each `k`, and RESULT is read-only. -/
theorem portRegistersReadAndWrite : Obligations.PortRegistersReadAndWrite := by
  intro s p q hq
  refine ⟨fun _ ho => exec_mmio_arg hq 0 ho, fun _ ho => exec_mmio_arg hq 1 ho, fun _ ho => exec_mmio_arg hq 2 ho,
    fun _ ho => exec_mmio_arg hq 3 ho, fun off ho => ?_⟩
  have hr : regOf off = .result p := regOf_port off p 0x14 ho (by decide)
  exact exec_mmio_readOnly (by omega) hr (State.portRead_present hq _) fun _ => rfl

/-- Settles O29: a reserved block offset, the reserved offset of a slot, and any offset of a slot without a port. -/
theorem reservedOffsetsAreRazWi : Obligations.ReservedOffsetsAreRazWi := by
  intro s off ha h
  obtain ⟨hlo, hhi⟩ | ⟨hlo, hsub⟩ | ⟨hslot, hlo⟩ := h
  · have hr : regOf off = .reserved := (if_pos (by omega)).trans (blockReg_reserved hlo)
    exact exec_mmio_readOnly ha hr rfl fun _ => rfl
  · have hr : regOf off = .reserved := regOf_port off ((off.toNat - 0x100) / 0x20) 0x1C (by omega) (by decide)
    exact exec_mmio_readOnly ha hr rfl fun _ => rfl
  · have hp : s.ports[(off.toNat - 0x100) / 0x20]? = none := List.getElem?_eq_none (by omega)
    exact exec_mmio_readOnly ha (if_neg (by omega)) (State.regRead_absentPort hp _) (State.regWrite_absentPort hp _)

/-- Settles O24: at each of the nine offsets stands a read-only register. -/
theorem readOnlyRegistersOfTheBlock : Obligations.ReadOnlyRegistersOfTheBlock := by
  intro s off x hx
  simp only [List.mem_cons, Prod.mk.injEq, List.not_mem_nil, or_false] at hx
  rcases hx with ⟨rfl, rfl⟩ | ⟨rfl, rfl⟩ | ⟨rfl, rfl⟩ | ⟨rfl, rfl⟩ | ⟨rfl, rfl⟩ | ⟨rfl, rfl⟩ | ⟨rfl, rfl⟩ | ⟨rfl, rfl⟩
    | ⟨rfl, rfl⟩
  all_goals exact exec_mmio_readOnly (by decide) rfl rfl fun _ => rfl

/-- Settles O25: the three registers are read-only, and CH_REM alone depends on a parameter, HAS_REMAINING_COUNTER. -/
theorem positionRegistersAreSnapshots : Obligations.PositionRegistersAreSnapshots := by
  intro s
  obtain ⟨hpos, hpos'⟩ := exec_mmio_readOnly (off := 0x01C#12) (r := .winPos) (s := s) (by decide) rfl rfl fun _ => rfl
  obtain ⟨hchunk, hchunk'⟩ :=
    exec_mmio_readOnly (off := 0x020#12) (r := .winChunk) (s := s) (by decide) rfl rfl fun _ => rfl
  obtain ⟨hrem, hrem'⟩ := exec_mmio_readOnly (off := 0x024#12) (r := .chRem) (s := s) (by decide) rfl rfl fun _ => rfl
  refine ⟨hpos, hchunk, fun hc => ?_, fun hc => ?_, fun v => ⟨hpos' v, hchunk' v, hrem' v⟩⟩
  · simpa [State.regRead, hc] using hrem
  · simpa [State.regRead, hc] using hrem

end Sys2Proof.Machine
end

section
/-! # The writers of each element

One inversion says which instruction can have written the block's control elements and counters; the obligations on the
writers (10_state.md R22, R24, R28 to R30, R32) read them off it. -/

namespace Sys2Proof.Machine

/-! ### What an instruction keeps -/

/-- `t` has the session, the engine, the window, the swap latch and the sticky fault bit of `s`. -/
structure State.KeepsControl (s t : State) : Prop where
  session : t.session = s.session
  engine : t.engine = s.engine
  mode : t.mode = s.mode
  win : t.win = s.win
  pendAddr : t.pendAddr = s.pendAddr
  pendValid : t.pendValid = s.pendValid
  faultZl : t.faultZl = s.faultZl

/-- `t` has the two counters of `s`. -/
structure State.KeepsCounters (s t : State) : Prop where
  periodCount : t.periodCount = s.periodCount
  gen : t.gen = s.gen

theorem CmdWrites.keepsCounters {s t : State} {p : Nat} {c : Cmd} (h : CmdWrites s p c t) : s.KeepsCounters t := by
  obtain ⟨_, _, _, _, _, _, _, _, _, _, rfl, -⟩ := h.frame
  exact ⟨rfl, rfl⟩

theorem CmdWrites.faultZl {s t : State} {p : Nat} {c : Cmd} (h : CmdWrites s p c t) : t.faultZl = s.faultZl := by
  obtain ⟨_, _, _, _, _, _, _, _, _, _, rfl, -⟩ := h.frame
  rfl

theorem CompleteWrites.keepsCounters {s t : State} (h : CompleteWrites s t) : s.KeepsCounters t := by
  obtain ⟨_, _, _, _, _, _, _, _, rfl⟩ := h.frame
  exact ⟨rfl, rfl⟩

theorem CompleteWrites.session {s t : State} (h : CompleteWrites s t) : t.session = s.session := by
  obtain ⟨_, _, _, _, _, _, _, _, rfl⟩ := h.frame
  rfl

theorem CompleteWrites.mode {s t : State} (h : CompleteWrites s t) : t.mode = s.mode := by
  obtain ⟨_, _, _, _, _, _, _, _, rfl⟩ := h.frame
  rfl

theorem CompleteWrites.pendAddr {s t : State} (h : CompleteWrites s t) : t.pendAddr = s.pendAddr := by
  obtain ⟨_, _, _, _, _, _, _, _, rfl⟩ := h.frame
  rfl

/-- COMPLETE never clears the sticky fault bit (10_state.md R32). -/
theorem CompleteWrites.faultZl_of_raised {s t : State} (h : CompleteWrites s t) (hf : s.faultZl = true) :
    t.faultZl = true := by
  obtain ⟨-, -, hsame⟩ | ⟨-, -, hraised, -⟩ := h.engine
  · exact hsame.trans hf
  · exact hraised

theorem State.beat_keeps (k : Nat) (s : State) : s.KeepsControl (s.beat k) ∧ s.KeepsCounters (s.beat k) := by
  obtain ⟨_, _, _, _, hmoved, -⟩ := s.moveBytes_frame k s.ch.next
  rw [State.beat, hmoved]
  exact ⟨⟨rfl, rfl, rfl, rfl, rfl, rfl, rfl⟩, rfl, rfl⟩

theorem State.notify_keepsControl (s : State) : s.KeepsControl s.notify := by
  unfold State.notify
  split <;> exact ⟨rfl, rfl, rfl, rfl, rfl, rfl, rfl⟩

@[simp] theorem State.notify_periodCount (s : State) : s.notify.periodCount = s.periodCount + 1#32 := by
  unfold State.notify
  split <;> rfl

/-- NOTIFY counts GEN on a frame alone (42_completion.md R195). -/
@[simp] theorem State.notify_gen (s : State) :
    s.notify.gen = if s.notifyPending = .frame then s.gen + 1#32 else s.gen := by
  unfold State.notify
  split <;> rfl

/-- What an instruction that answers `t` has done to the control elements: nothing, or it
is RESET, COMPLETE or a command. -/
inductive ControlEffect (s t : State) (i : Instr) : Prop where
  | kept (hk : s.KeepsControl t)
  | reset (hi : i = .reset) (ht : t = s.blockReset)
  | complete (hi : i = .complete) (ht : t = s.complete)
  | command (p : Nat) (c : Cmd) (hi : i.issues = some (p, c)) (hw : CmdWrites s p c t)

theorem exec_controlEffect {i : Instr} {s t : State} (h : exec i s = .next t) : ControlEffect s t i := by
  cases exec_effect h with
  | command _ p c q hi _ _ => exact .command p c hi (runCmd_writes p c q s)
  | beat k _ _ => exact .kept (s.beat_keeps k).1
  | complete _ => exact .complete rfl rfl
  | notify _ => exact .kept s.notify_keepsControl
  | reset => exact .reset rfl rfl
  | _ => exact .kept ⟨rfl, rfl, rfl, rfl, rfl, rfl, rfl⟩

/-- An instruction keeps both counters, or it is RESET or an enabled NOTIFY. -/
theorem exec_counters {i : Instr} {s t : State} (h : exec i s = .next t) :
    s.KeepsCounters t ∨ (i = .reset ∧ t = s.blockReset)
    ∨ (i = .notify ∧ s.notifyPending ≠ .none ∧ t = s.notify) := by
  cases exec_effect h with
  | command _ p c q _ _ _ => exact .inl (runCmd_writes p c q s).keepsCounters
  | beat k _ _ => exact .inl (s.beat_keeps k).2
  | complete _ => exact .inl (complete_writes s).keepsCounters
  | notify he => exact .inr (.inr ⟨rfl, of_decide_eq_true he, rfl⟩)
  | reset => exact .inr (.inl ⟨rfl, rfl⟩)
  | _ => exact .inl ⟨rfl, rfl⟩

/-! ### COMPLETE under the invariant -/

theorem State.Inv.opened_of_running {s : State} (h : s.Inv) (hr : s.engine = .running) : s.session = .opened :=
  Session.eq_opened fun hc => by simp [(h.session hc).1] at hr

/-- R53, R54 and R132 as the tracker's laws want them. -/
theorem State.Inv.good {s : State} (h : s.Inv) (ho : s.session = .opened) : s.win.Good := by
  obtain ⟨hperiod, hle, hfin, hbound, -, -⟩ := h.window ho
  obtain ⟨hge, hlt, haligned⟩ := h.position ho
  exact ⟨hperiod, hle, hfin, hbound, hge, hlt, haligned⟩

/-- R53: a latched buffer has an address range of its own. -/
theorem State.Inv.latched_le {s : State} (h : s.Inv) (ho : s.session = .opened) (hv : s.pendValid = true) :
    s.pendAddr.toNat + s.win.len.toNat ≤ maxAddr := by
  obtain ⟨-, -, -, -, -, hlatch⟩ := h.window ho
  exact (hlatch hv).2

/-- COMPLETE's window work on a good window ends in a good window with its chunk computed. -/
theorem State.completeWindow_good {s : State} (hg : s.win.Good) (hc : s.win.Chunked)
    (hl : s.pendValid = true → s.pendAddr.toNat + s.win.len.toNat ≤ maxAddr) :
    s.completeWindow.win.Good ∧ s.completeWindow.win.Chunked := by
  have ht : s.win.trackNext.Good := hg.trackNext hc
  unfold State.completeWindow
  split
  · rename_i hs
    have hv : s.pendValid = true := (Bool.and_eq_true_iff.mp hs).2
    have ha : s.pendAddr.toNat + s.win.trackNext.len.toNat ≤ maxAddr := by simpa using hl hv
    exact ⟨(ht.swapTo ha).nextChunk, Window.nextChunk_chunked _⟩
  · exact ⟨ht, s.win.trackNext_chunked⟩

/-- A re-arm of a nonempty chunk raises no fault. -/
theorem State.rearm_faultZl {s : State} (h : s.win.chunk ≠ 0#32) : s.rearm.faultZl = s.faultZl := by
  simp [State.rearm, State.arm_ok h]

/-- 41_engine.md R151: under the invariant COMPLETE's re-arm finds a chunk, so it raises no fault. -/
theorem State.Inv.complete_faultZl {s : State} (h : s.Inv) : s.complete.faultZl = s.faultZl := by
  unfold State.complete
  split
  · rename_i hr
    have ho : s.session = .opened := h.opened_of_running hr
    have hw := State.completeWindow_good (s := s.setCh { s.ch with done := false }) (h.good ho) (h.chunk hr)
      (h.latched_le ho)
    obtain ⟨_, _, hframe, -⟩ := (s.setCh { s.ch with done := false }).completeWindow_eq
    have hkeep : (s.setCh { s.ch with done := false }).completeWindow.faultZl = s.faultZl := by rw [hframe]; rfl
    simp [State.rearm_faultZl (hw.1.chunk_ne_zero hw.2), hkeep]
  · rfl

/-! ### The obligations on the writers -/

theorem State.swapLatched_eq_false {s : State} (h : s.mode = .period ∨ s.pendValid = false) : s.swapLatched = false := by
  obtain h | h := h <;> simp [State.swapLatched, h]

/-- An enabled NOTIFY is `State.notify` (42_completion.md R195). -/
theorem exec_notify_of_pending {s : State} (hp : s.notifyPending ≠ .none) : exec .notify s = .next s.notify := by
  simp [exec, execNotify, State.notifyEnabled, hp]

/-- Settles O40: COMPLETE can only idle the engine, and a command's own writes are `CmdWrites`. -/
theorem writersOfTheEngineState : Obligations.WritersOfTheEngineState := by
  intro i s t h
  cases exec_controlEffect h with
  | kept hk =>
    exact ⟨fun hne => absurd hk.session hne, fun hne => absurd hk.mode hne, fun hne => absurd hk.engine hne⟩
  | reset hi _ => exact ⟨fun _ => .inl hi, fun _ => .inl hi, fun _ => .inl hi⟩
  | complete hi ht =>
    have hw : CompleteWrites s t := ht ▸ complete_writes s
    refine ⟨fun hne => absurd hw.session hne, fun hne => absurd hw.mode hne, fun hne => ?_⟩
    obtain ⟨hsame, -, -⟩ | ⟨hidle, -, hfault, -⟩ := hw.engine
    · exact absurd hsame hne
    · exact .inr (.inr (.inr ⟨hi, hidle, hfault⟩))
  | command p c hi hw =>
    refine ⟨fun hne => .inr ⟨p, ?_⟩, fun hne => .inr ⟨p, ?_⟩, fun hne => .inr ?_⟩
    · obtain ⟨m, rfl⟩ | rfl := hw.session hne
      · exact .inl ⟨m, hi⟩
      · exact .inr hi
    · obtain ⟨m, rfl⟩ := hw.mode hne
      exact ⟨m, hi⟩
    · obtain ⟨rfl, hrun⟩ | ⟨rfl, hidle⟩ := hw.engine hne
      · exact .inl ⟨p, hi, hrun⟩
      · exact .inr (.inl ⟨p, hi, hidle⟩)

/-- Settles O41: COMPLETE and START move the buffer only by a latched swap. -/
theorem writersOfTheWindow : Obligations.WritersOfTheWindow := by
  intro i s t h
  cases exec_controlEffect h with
  | kept hk => exact ⟨fun hne => absurd hk.win hne, fun _ => by simp [hk.win]⟩
  | reset hi _ =>
    subst hi
    exact ⟨fun _ => .inl rfl, fun hw => by simp [Instr.issues] at hw⟩
  | complete hi ht =>
    obtain ⟨hlen, hperiod, hsink, hbuffer⟩ := (complete_writes s).win
    subst ht
    exact ⟨fun _ => .inr (.inl hi), fun _ => ⟨hlen, hperiod, hsink, fun hs => hbuffer (State.swapLatched_eq_false hs)⟩⟩
  | command p c hi hw =>
    refine ⟨fun hne => .inr (.inr ⟨p, ?_⟩), fun hs => ?_⟩
    · obtain ⟨m, rfl⟩ | rfl := hw.win hne
      · exact .inl ⟨m, hi⟩
      · exact .inr hi
    · have hc : c = .start := by
        obtain rfl | ⟨p', hs⟩ := hs
        · cases hi
        · cases hi.symm.trans hs
          rfl
      obtain ⟨hlen, hperiod, hsink, hbuffer⟩ := hw.start hc
      exact ⟨hlen, hperiod, hsink, fun hs => hbuffer (State.swapLatched_eq_false hs)⟩

/-- Settles O43: only RESET and an enabled NOTIFY touch the counters, and NOTIFY's count wraps as word addition does. -/
theorem writersOfTheCounters : Obligations.WritersOfTheCounters := by
  intro i s t h
  have periods : s.notify.periodCount.toNat = (s.periodCount.toNat + 1) % 2 ^ 32 := by simp
  have frames (hp : s.notifyPending = .frame) : s.notify.gen.toNat = (s.gen.toNat + 1) % 2 ^ 32 := by simp [hp]
  have counts (hi : i = .notify) (hp : s.notifyPending ≠ .none) : t = s.notify := by
    subst hi
    exact (Host.Outcome.next.inj ((exec_notify_of_pending hp).symm.trans h)).symm
  refine ⟨fun hne => ?_, fun hne => ?_, fun hi hp => ?_, fun hi hp => ?_⟩
  · obtain hk | ⟨hi, rfl⟩ | ⟨hi, hp, rfl⟩ := exec_counters h
    · exact absurd hk.periodCount hne
    · exact .inl ⟨hi, rfl⟩
    · exact .inr ⟨hi, hp, periods⟩
  · obtain hk | ⟨hi, rfl⟩ | ⟨hi, -, rfl⟩ := exec_counters h
    · exact absurd hk.gen hne
    · exact .inl ⟨hi, rfl⟩
    · have hp : s.notifyPending = .frame := by
        by_contra hp
        exact hne (by simp [hp])
      exact .inr ⟨hi, hp, frames hp⟩
  · rw [counts hi hp, periods]
  · rw [counts hi (by simp [hp]), frames hp]

/-- Settles O44: only COMPLETE can raise the fault, and under the invariant its re-arm finds a chunk. -/
theorem writersOfLatchAndFaultBit : Obligations.WritersOfLatchAndFaultBit := by
  intro i s t h
  cases exec_controlEffect h with
  | kept hk =>
    refine ⟨fun hne => absurd hk.pendAddr hne, ?_, ?_, ?_, ?_⟩
    all_goals
      intro hv hv'
      simp [hk.pendValid, hk.faultZl, hv] at hv'
  | reset hi ht =>
    have hvalid : t.pendValid = false := by subst ht; rfl
    have hfault : t.faultZl = false := by subst ht; rfl
    exact ⟨fun _ => .inl hi, by simp [hvalid], fun _ _ => .inl hi, by simp [hfault], fun _ _ => hi⟩
  | complete hi ht =>
    have hw : CompleteWrites s t := ht ▸ complete_writes s
    refine ⟨fun hne => absurd hw.pendAddr hne, fun hv => ?_, fun _ _ => .inr (.inl hi),
      fun hf hf' => ⟨hi, fun hinv => ?_⟩, fun hf => ?_⟩
    · simp [hw.latch hv]
    · simp [ht, hinv.complete_faultZl, hf] at hf'
    · simp [hw.faultZl_of_raised hf]
  | command p c hi hw =>
    refine ⟨fun hne => .inr ⟨p, hw.pendAddr hne ▸ hi⟩, fun hv hv' => ⟨p, hw.latch hv hv' ▸ hi⟩,
      fun hv hv' => .inr (.inr ⟨p, ?_⟩), ?_, ?_⟩
    · obtain ⟨m, rfl⟩ | rfl | rfl := hw.unlatch hv hv'
      · exact .inl ⟨m, hi⟩
      · exact .inr (.inl hi)
      · exact .inr (.inr hi)
    all_goals
      intro hf hf'
      simp [hw.faultZl, hf] at hf'

end Sys2Proof.Machine
end

section
/-! # The accesses that the register space refuses

The accesses that fail the check of 20_memory.md R78, and the obligation that they alone are bus errors (60_exceptions.md
R308). The accesses that pass it are `exec_mmioRead_w32` and `exec_mmioWrite_w32`. -/

namespace Sys2Proof.Machine

theorem accessAdmitted_eq_false {off : BitVec 12} {w : AccessWidth} (h : w ≠ .w32 ∨ off.toNat % 4 ≠ 0) :
    accessAdmitted off w = false :=
  decide_eq_false (not_and_or.mpr h)

/-- 60_exceptions.md R308 for a read. -/
theorem exec_mmioRead_busError {off : BitVec 12} {w : AccessWidth} (h : accessAdmitted off w = false) (s : State) :
    exec (.mmioRead off w) s = .fault (.busError off) :=
  if_neg (Bool.eq_false_iff.mp h)

/-- 60_exceptions.md R308 for a write. -/
theorem exec_mmioWrite_busError {off : BitVec 12} {w : AccessWidth} (h : accessAdmitted off w = false) (v : Word)
    (s : State) : exec (.mmioWrite off w v) s = .fault (.busError off) :=
  if_neg (Bool.eq_false_iff.mp h)

/-- Settles O30: R78's check decides between the bus error and the access to the register that the offset names. -/
theorem busErrorNamesTheOffset : Obligations.BusErrorNamesTheOffset := by
  intro s off w v
  refine ⟨fun hrefused => ?_, fun ⟨hw, ha⟩ => ?_⟩
  · have hadm : accessAdmitted off w = false := accessAdmitted_eq_false hrefused
    exact ⟨exec_mmioRead_busError hadm s, exec_mmioWrite_busError hadm v s⟩
  · subst hw
    exact ⟨⟨_, exec_mmioRead_w32 ha rfl s⟩, ⟨_, exec_mmioWrite_w32 ha rfl v s⟩⟩

end Sys2Proof.Machine
end

section
/-! # The legal and the illegal command words

What the decoder makes of a command word, read off its fields RSVD, M and OP (30_encoding.md R100 to R104), and the
obligations on M and on the illegal words assembled from it. -/

namespace Sys2Proof

theorem decodeCmd_of_reserved {w : Word} (hr : cwRsvd w ≠ 0#23) : decodeCmd w = .error .reservedBits :=
  if_pos hr

theorem decodeCmd_of_open {w : Word} (hr : cwRsvd w = 0#23) (ho : cwOp w = 0x01#8) :
    decodeCmd w = .ok (.openSession (modeOfBit (cwM w))) := by
  simp [decodeCmd, hr, ho]

theorem decodeCmd_of_modeBit {w : Word} (hr : cwRsvd w = 0#23) (ho : cwOp w ≠ 0x01#8) (hm : cwM w = true) :
    decodeCmd w = .error .modeBit := by
  simp [decodeCmd, hr, ho, hm]

/-- With RSVD = 0 and M = 0 the opcode alone decides: 0x01 to 0x07 are the seven commands. -/
theorem decodeCmd_error_iff_opcode {w : Word} (hr : cwRsvd w = 0#23) (hm : cwM w = false) :
    (∃ e, decodeCmd w = .error e) ↔ (cwOp w).toNat = 0 ∨ 8 ≤ (cwOp w).toNat := by
  have hladder : (∃ e, decodeCmd w = .error e) ↔ cwOp w ≠ 0x01#8 ∧ cwOp w ≠ 0x02#8 ∧ cwOp w ≠ 0x03#8
      ∧ cwOp w ≠ 0x04#8 ∧ cwOp w ≠ 0x05#8 ∧ cwOp w ≠ 0x06#8 ∧ cwOp w ≠ 0x07#8 := by
    unfold decodeCmd
    split_ifs <;> simp_all
  rw [hladder]
  bv_omega

/-- 30_encoding.md R104: which command words are illegal. -/
theorem decodeCmd_error_iff (w : Word) :
    (∃ e, decodeCmd w = .error e) ↔
      ((cwOp w).toNat = 0 ∨ 8 ≤ (cwOp w).toNat ∨ cwRsvd w ≠ 0#23 ∨ (cwM w = true ∧ (cwOp w).toNat ≠ 1)) := by
  by_cases hr : cwRsvd w = 0#23
  case neg => simp [decodeCmd_of_reserved hr, hr]
  by_cases ho : cwOp w = 0x01#8
  case pos => simp [decodeCmd_of_open hr ho, hr, ho]
  have hop : (cwOp w).toNat ≠ 1 := fun h => ho (BitVec.eq_of_toNat_eq h)
  cases hm : cwM w with
  | true => simp [decodeCmd_of_modeBit hr ho hm, hop]
  | false => simp [decodeCmd_error_iff_opcode hr hm, hr]

end Sys2Proof

namespace Sys2Proof.Machine

/-- The instruction of a command, on a port that can take it, is that command's rule (45_host_interface.md R275). -/
theorem exec_onPort_ready {s : State} {p : Nat} {q : Port} (hq : s.Ready p q) (c : Cmd) :
    exec (c.onPort p) s = .next (runCmd p c q s) := by
  obtain ⟨hport, hbusy⟩ := hq
  rw [exec_onPort, State.onPort_ready _ hport hbusy]

/-- An illegal command word ends at once (30_encoding.md R104). -/
theorem State.issue_of_illegal {s : State} {p : Nat} {q : Port} {w : Word} {e : DecodeError} (hq : s.Ready p q)
    (hw : decodeCmd w = .error e) : s.issue p w = s.finish p .illegalCommand 0#32 := by
  obtain ⟨hport, hbusy⟩ := hq
  rw [State.issue, State.onPort_ready _ hport hbusy, issueRule, hw]

/-- REQADDR is illegal in a session in PERIOD mode (44_vsync.md R245). -/
theorem reqaddrRule_period {s : State} (hs : s.session = .opened) (hm : s.mode = .period) (p : Nat) (q : Port) :
    reqaddrRule p q s = s.finish p .illegalCommand 0#32 := by
  simp [reqaddrRule, hs, hm]

/-- WAITGEN is illegal in a session in PERIOD mode (44_vsync.md R250). -/
theorem waitgenRule_period {s : State} (hs : s.session = .opened) (hm : s.mode = .period) (p : Nat) (q : Port) :
    waitgenRule p q s = s.finish p .illegalCommand 0#32 := by
  simp [waitgenRule, hs, hm]

/-- Settles O3: with OP = OPEN the word's M is its mode, and with any other OP a set M makes it illegal. -/
theorem modeBitSelectsOpenMode : Obligations.ModeBitSelectsOpenMode := by
  intro w
  have hopen (hr : cwRsvd w = 0#23) (ho : cwOp w = 0x01#8) {b : Bool} (hm : w.getLsbD 8 = b) :
      decodeCmd w = .ok (.openSession (modeOfBit b)) := hm ▸ decodeCmd_of_open hr ho
  have hillegal (ho : cwOp w ≠ 0x01#8) (hm : w.getLsbD 8 = true) : ∃ e, decodeCmd w = .error e :=
    (decodeCmd_error_iff w).mpr (.inr (.inr (.inr ⟨hm, fun h => ho (BitVec.eq_of_toNat_eq h)⟩)))
  refine ⟨fun hr ho hm => hopen hr ho hm, fun hr ho hm => hopen hr ho hm, hillegal, fun c hc hne => ?_⟩
  have hlegal : ¬ ∃ e, decodeCmd w = .error e := by simp [hc]
  have hr : cwRsvd w = 0#23 := not_not.mp fun hr => hlegal ⟨_, decodeCmd_of_reserved hr⟩
  have ho : cwOp w ≠ 0x01#8 := fun ho => hne _ (Except.ok.inj (hc.symm.trans (decodeCmd_of_open hr ho)))
  exact Bool.eq_false_iff.mpr fun hm => hlegal (hillegal ho hm)

/-- Settles O4: R104's list is the decoder's, and each of the endings is one rule on a port that is ready. -/
theorem illegalWordsEndAtOnce : Obligations.IllegalWordsEndAtOnce := by
  refine ⟨decodeCmd_error_iff, fun s p q w e off hq hw ho => ?_, fun s p q hq hs hm => ⟨?_, ?_⟩⟩
  · have hr : regOf off = .cmd p := regOf_port off p 0x10 ho (by decide)
    rw [exec_mmioWrite_w32 (by omega) hr, State.regWrite, State.issue_of_illegal hq hw]
  · exact (exec_onPort_ready hq .reqaddr).trans (congrArg _ (reqaddrRule_period hs hm p q))
  · exact (exec_onPort_ready hq .waitgen).trans (congrArg _ (waitgenRule_period hs hm p q))

end Sys2Proof.Machine
end

section
/-! # The tracker's operations within the window

A commit that stays within the window wraps exactly at its end (40_tracker.md R136). From this and the closed forms of the
operations comes the obligation on what each of them writes. -/

namespace Sys2Proof.Machine

/-- `nextChunk` writes the chunk and nothing else. -/
theorem Window.nextChunk_eq (w : Window) : w.nextChunk = { w with chunk := w.nextChunk.chunk } := rfl

/-- 40_tracker.md R136's corner case: after a commit within the window, `advance` wraps only if the chunk was the last. -/
theorem Window.trackNext_of_le_fin {w : Window} (h : w.pos.toNat + w.chunk.toNat ≤ w.fin.toNat) :
    w.trackNext = Window.nextChunk
      { w with pos := if w.pos.toNat + w.chunk.toNat = w.fin.toNat then w.start else w.pos + w.chunk } := by
  have hsum : (w.pos + w.chunk).toNat = w.pos.toNat + w.chunk.toNat :=
    BitVec.toNat_add_of_lt (Nat.lt_of_le_of_lt h w.fin.isLt)
  simp only [Window.trackNext_eq, hsum, h.ge_iff_eq]

/-- 44_vsync.md R242 in closed form. -/
theorem State.applySwap_eq (s : State) : s.applySwap = { s with
    win := { s.win with start := s.pendAddr, fin := s.pendAddr + s.win.len, pos := s.pendAddr }
    pendValid := false } := by
  rw [State.applySwap, Window.swapTo_eq]

/-- Settles O32: each operation by its closed form, and the end of the swapped buffer is a sum that does not overflow. -/
theorem trackerAndSwapMoveTheWindow : Obligations.TrackerAndSwapMoveTheWindow := by
  refine ⟨fun w => ⟨fun hwrap => ?_, fun hin => ?_, fun _ => ?_, fun hin => ?_⟩, fun s hfits => ⟨s.applySwap_eq, ?_⟩⟩
  · rw [w.advance_eq, if_pos hwrap]
  · rw [w.advance_eq, if_neg hin.not_ge]
  · exact ⟨_, w.nextChunk_eq, w.nextChunk_chunk_toNat⟩
  · exact ⟨_, Window.trackNext_of_le_fin hin, Window.nextChunk_chunk_toNat _⟩
  · exact word_add_toNat s.pendAddr s.win.len hfits

end Sys2Proof.Machine
end

section
/-! # The engine's commands and the channel's beat

What each rule of the Transfer Engine leaves, one equation per outcome: OPEN, CLOSE, START, STOP, and the beat in each
direction (41_engine.md R155 to R170). The obligations on the engine are assembled from them. -/

namespace Sys2Proof.Machine

/-! ### OPEN and CLOSE -/

/-- When OPEN's checks refuse it (41_engine.md R155). -/
theorem openRejected_iff (m : Mode) (q : Port) (s : State) :
    openRejected m q s = true ↔ s.engine = .running ∨ q.arg2 = 0#32 ∨ q.arg1.toNat < q.arg2.toNat
      ∨ maxAddr < q.arg0.toNat + q.arg1.toNat ∨ (m = .frame ∧ q.arg2 ≠ q.arg1) := by
  simp [openRejected, or_assoc]

theorem openRule_rejected {m : Mode} {q : Port} {s : State} (h : openRejected m q s = true) (p : Nat) :
    openRule p m q s = s.finish p .invalidConfig 0#32 :=
  if_pos h

theorem openRule_accepted {m : Mode} {q : Port} {s : State} (h : ¬ openRejected m q s = true) (p : Nat) :
    openRule p m q s = State.finish p .ok 0#32
      { s with mode := m, win := Window.opened q, pendValid := false, session := .opened } :=
  if_neg h

theorem closeRule_running {s : State} (h : s.engine = .running) (p : Nat) (q : Port) :
    closeRule p q s = s.finish p .invalidConfig 0#32 :=
  if_pos h

theorem closeRule_idle {s : State} (h : s.engine = .idle) (p : Nat) (q : Port) :
    closeRule p q s = State.finish p .ok 0#32 { s with session := .closed, pendValid := false } :=
  if_neg (by simp [h])

/-! ### START -/

/-- The window after the swap that START applies, if one is latched (41_engine.md R160). -/
def State.swappedWindow (s : State) : Window :=
  if s.mode = .frame ∧ s.pendValid = true then
    { s.win with start := s.pendAddr, fin := s.pendAddr + s.win.len, pos := s.pendAddr }
  else s.win

/-- The length of the chunk at the start of that window. -/
def State.firstChunk (s : State) : Nat :=
  min s.swappedWindow.period.toNat (s.swappedWindow.fin.toNat - s.swappedWindow.start.toNat)

/-- The window that START hands to the arm: at its start, with the first chunk. -/
def State.startedWindow (s : State) : Window :=
  { s.swappedWindow with pos := s.swappedWindow.start, chunk := word s.firstChunk }

/-- PEND_VALID after START: a latched swap is applied in FRAME mode, so there the latch ends clear. -/
def State.latchAfterStart (s : State) : Bool := if s.mode = .frame then false else s.pendValid

theorem State.swapLatched_iff (s : State) : s.swapLatched = true ↔ s.mode = .frame ∧ s.pendValid = true := by
  simp [State.swapLatched]

/-- At its start a window has nothing to wrap. -/
theorem Window.advance_at_start (w : Window) :
    Window.advance { w with pos := w.start } = { w with pos := w.start } := by
  simp [Window.advance_eq]

/-- START's window work, with what the swap leaves written out. -/
theorem State.startWindow_eq_started (s : State) :
    s.startWindow = { s with win := s.startedWindow, pendValid := s.latchAfterStart } := by
  unfold State.startWindow State.startedWindow State.firstChunk
  simp only [Window.advance_at_start]
  by_cases h : s.mode = .frame ∧ s.pendValid = true
  · have hw : s.swappedWindow = s.win.swapTo s.pendAddr := by
      rw [State.swappedWindow, if_pos h, Window.swapTo_eq]
    rw [hw, if_pos (s.swapLatched_iff.mpr h), State.latchAfterStart, if_pos h.1]
    rfl
  · have hw : s.swappedWindow = s.win := if_neg h
    have hv : s.latchAfterStart = s.pendValid := by
      unfold State.latchAfterStart
      split
      · exact (Bool.eq_false_iff.mpr fun hv => h ⟨‹_›, hv⟩).symm
      · rfl
    rw [hw, hv, if_neg (mt s.swapLatched_iff.mp h)]
    rfl

/-- The first chunk is at most a period, so as a word it is itself: it is empty only at length 0. -/
theorem State.startWindow_chunk_eq_zero (s : State) : s.startWindow.win.chunk = 0#32 ↔ s.firstChunk = 0 := by
  have hlt : s.firstChunk < 2 ^ 32 := Nat.lt_of_le_of_lt (Nat.min_le_left _ _) s.swappedWindow.period.isLt
  have hnat : s.startWindow.win.chunk.toNat = s.firstChunk := by
    rw [s.startWindow_eq_started]
    exact Nat.mod_eq_of_lt hlt
  rw [← BitVec.toNat_inj, hnat]
  rfl

theorem startRule_rejected {s : State} (h : s.session = .closed ∨ s.engine = .running) (p : Nat) (q : Port) :
    startRule p q s = s.finish p .invalidConfig 0#32 := by
  obtain h | h := h
  · exact if_pos h
  · simp [startRule, h]

/-- START with a first chunk: the channel is armed with it, and the engine runs (41_engine.md R160). -/
theorem startRule_armed {s : State} (ho : s.session = .opened) (he : s.engine = .idle) (hc : s.firstChunk ≠ 0)
    (p : Nat) (q : Port) : startRule p q s = State.finish p .ok 0#32
      { s with
        win := s.startedWindow
        pendValid := s.latchAfterStart
        ch := { active := true, src := s.startedWindow.pos, dst := s.startedWindow.sink, len := s.startedWindow.chunk
                rem := s.startedWindow.chunk, done := false }
        engine := .running
        raced := [] } := by
  have hchunk : s.startWindow.win.chunk ≠ 0#32 := mt s.startWindow_chunk_eq_zero.mp hc
  have hopen : s.session ≠ .closed := by simp [ho]
  have hidle : s.engine ≠ .running := by simp [he]
  rw [startRule, if_neg hopen, if_neg hidle, State.arm_ok hchunk, s.startWindow_eq_started]
  rfl

/-- START with no first chunk: the channel is only reset (41_engine.md R160). -/
theorem startRule_zeroLength {s : State} (ho : s.session = .opened) (he : s.engine = .idle) (hc : s.firstChunk = 0)
    (p : Nat) (q : Port) : startRule p q s = State.finish p .zeroLength 0#32
      { s with
        win := s.startedWindow
        pendValid := s.latchAfterStart
        ch := { s.ch with active := false, done := false, rem := 0#32 }
        raced := [] } := by
  have hchunk : s.startWindow.win.chunk = 0#32 := s.startWindow_chunk_eq_zero.mpr hc
  have hopen : s.session ≠ .closed := by simp [ho]
  have hidle : s.engine ≠ .running := by simp [he]
  rw [startRule, if_neg hopen, if_neg hidle, State.arm_zero hchunk, s.startWindow_eq_started]

/-! ### STOP -/

theorem State.stopChannel_inactive {s : State} (h : s.ch.active = false) : s.stopChannel = s := by
  simp [State.stopChannel, h]

/-- On an active channel STOP takes one draw, and DRAIN or ABORT follows from it (41_engine.md R165). -/
theorem State.stopChannel_active {s : State} (h : s.ch.active = true) :
    s.stopChannel = { s with draws := s.draws + 1 }
    ∨ s.stopChannel = { s with ch := s.ch.aborted, draws := s.draws + 1 } := by
  cases hd : Config.stopDrains s.draws with
  | true => exact .inl (by simp [State.stopChannel, h, hd])
  | false => exact .inr (by simp [State.stopChannel, h, hd])

/-! ### BEAT -/

theorem State.moveByte_toSink {s : State} (h : s.params.direction = .memToSink) (a : Nat) : ∃ d, s.moveByte a
    = { s with sink := s.sink ++ [⟨s.ch.dst, s.chanRead a⟩], draws := d } := by
  obtain ⟨-, hmove⟩ | ⟨hother, -⟩ := s.moveByte_cases a
  · exact hmove
  · simp [h] at hother

theorem State.moveByte_fromSource {s : State} (h : s.params.direction = .sourceToMem) (a : Nat) : s.moveByte a
    = { s with mem := Memory.write s.mem a (Config.sourceByte s.sourceTaken), sourceTaken := s.sourceTaken + 1 } := by
  obtain ⟨hother, -⟩ | ⟨-, hmove⟩ := s.moveByte_cases a
  · simp [h] at hother
  · exact hmove

/-- `out` is what the channel appends to the sink for the `n` bytes at address `a` of state `s`, in ascending order. -/
structure State.SinkBytes (s : State) (a n : Nat) (out : List SinkByte) : Prop where
  length : out.length = n
  byte : ∀ j, j < n → a + j ∉ s.raced → (out[j]?).map SinkByte.byte = some (s.memByte (a + j))
  dst : ∀ b ∈ out, b.dst = s.ch.dst

/-- One byte in front of the `n` bytes after it. -/
theorem State.SinkBytes.cons {s : State} {a n : Nat} {out : List SinkByte} (h : s.SinkBytes (a + 1) n out) :
    s.SinkBytes a (n + 1) (⟨s.ch.dst, s.chanRead a⟩ :: out) where
  length := by simp [h.length]
  byte j hj hr := by
    cases j with
    | zero =>
      have hr : a ∉ s.raced := hr
      simp [State.chanRead, hr]
    | succ j =>
      have hnext : a + (j + 1) = a + 1 + j := by omega
      rw [hnext] at hr ⊢
      simpa using h.byte j (by omega) hr
  dst := by simpa using h.dst

/-- A move of `n` bytes to the sink (41_engine.md R170). -/
theorem State.moveBytes_toSink (n a : Nat) {s : State} (hdir : s.params.direction = .memToSink) :
    ∃ out d, s.SinkBytes a n out ∧ s.moveBytes n a = { s with sink := s.sink ++ out, draws := d } := by
  induction n generalizing a s with
  | zero => exact ⟨[], s.draws, ⟨rfl, by simp, by simp⟩, by simp [State.moveBytes]⟩
  | succ n ih =>
    obtain ⟨d, hfirst⟩ := s.moveByte_toSink hdir a
    obtain ⟨out, d', hout, hrest⟩ := ih (a + 1) (s := s.moveByte a) (by rw [hfirst]; exact hdir)
    rw [hfirst] at hout hrest
    have hout : s.SinkBytes (a + 1) n out := ⟨hout.length, hout.byte, hout.dst⟩
    refine ⟨_, d', hout.cons, ?_⟩
    rw [State.moveBytes, hfirst, hrest]
    simp

/-- `m` is what `n` bytes of the source stream from byte `i` on make of memory `m0`, stored from address `a` on. -/
structure Memory.SourceStored (m0 m : Memory) (a n i : Nat) : Prop where
  stored : ∀ j, j < n → Memory.read? m (a + j) = some (Config.sourceByte (i + j))
  other : ∀ x, x < a ∨ a + n ≤ x → Memory.read? m x = Memory.read? m0 x

/-- One byte stored in front of the `n` bytes after it, which leave it alone. -/
theorem Memory.SourceStored.cons {m0 m : Memory} {a n i : Nat}
    (h : Memory.SourceStored (Memory.write m0 a (Config.sourceByte i)) m (a + 1) n (i + 1)) :
    Memory.SourceStored m0 m a (n + 1) i where
  stored j hj := by
    cases j with
    | zero => simpa using h.other a (by omega)
    | succ j =>
      have haddr : a + (j + 1) = a + 1 + j := by omega
      have hindex : i + (j + 1) = i + 1 + j := by omega
      rw [haddr, hindex]
      exact h.stored j (by omega)
  other x hx := by rw [h.other x (by omega), Memory.read?_write_other _ _ (by omega)]

/-- A move of `n` bytes from the source (41_engine.md R170). -/
theorem State.moveBytes_fromSource (n a : Nat) {s : State} (hdir : s.params.direction = .sourceToMem) :
    ∃ m, Memory.SourceStored s.mem m a n s.sourceTaken
      ∧ s.moveBytes n a = { s with mem := m, sourceTaken := s.sourceTaken + n } := by
  induction n generalizing a s with
  | zero => exact ⟨s.mem, ⟨by simp, fun _ _ => rfl⟩, rfl⟩
  | succ n ih =>
    have hfirst := s.moveByte_fromSource hdir a
    obtain ⟨m, hm, hrest⟩ := ih (a + 1) (s := s.moveByte a) (by rw [hfirst]; exact hdir)
    rw [hfirst] at hm hrest
    refine ⟨m, hm.cons, ?_⟩
    rw [State.moveBytes, hfirst, hrest]
    simp [Nat.add_assoc, Nat.add_comm 1]

/-- A beat that is enabled, at addresses that all name memory, moves its bytes and then counts them. -/
theorem exec_beat_enabled {s : State} {k : Nat} (ha : s.ch.active = true) (hk : 1 ≤ k) (hrem : k ≤ s.ch.rem.toNat)
    (hm : s.params.AdmitsRange s.ch.next k) :
    exec (.beat k) s = .next ((s.moveBytes k s.ch.next).setCh (s.ch.afterBeat k)) := by
  have hen : s.beatEnabled k = true := by simp [State.beatEnabled, ha, hk, hrem]
  have hpresent : s.params.firstAbsent k s.ch.next = none := (s.params.firstAbsent_eq_none k _).mpr hm
  simp [exec, execBeat, hen, hpresent, State.beat]

/-! ### The obligations on the engine -/

/-- Settles O17: the moves of each direction are an induction on the bytes, and the channel counts them at the end. -/
theorem beatMovesTheNextBytes : Obligations.BeatMovesTheNextBytes := by
  intro s k ha hk hrem a0 c hm
  have hc : s.ch.afterBeat k = c := s.ch.afterBeat_eq hrem
  have hbeat : exec (.beat k) s = .next ((s.moveBytes k a0).setCh c) := hc ▸ exec_beat_enabled ha hk hrem hm
  refine ⟨fun hdir => ?_, fun hdir => ?_⟩
  · obtain ⟨out, d, hout, hmove⟩ := State.moveBytes_toSink k a0 hdir
    exact ⟨out, d, hout.length, hout.byte, by rw [hbeat, hmove]; rfl⟩
  · obtain ⟨m, hstored, hmove⟩ := State.moveBytes_fromSource k a0 hdir
    exact ⟨m, by rw [hbeat, hmove]; rfl, hstored.stored, hstored.other⟩

/-- Settles O9: the five checks are read off as conditions, and the window's end is a word sum. -/
theorem openSetsTheSession : Obligations.OpenSetsTheSession := by
  intro s p m q hq
  refine ⟨fun hidle hper hle hfits hframe => ?_, fun hbad => ?_⟩
  · have hok : ¬ openRejected m q s = true := by
      rw [openRejected_iff]
      rintro (h | h | h | h | ⟨hm, hne⟩)
      · simp [hidle] at h
      · exact hper h
      · exact hle.not_gt h
      · exact hfits.not_gt h
      · exact hne (hframe hm)
    refine (exec_onPort_ready hq (.openSession m)).trans (congrArg _ ?_)
    rw [← Window.opened_eq]
    exact openRule_accepted hok p
  · exact (exec_onPort_ready hq (.openSession m)).trans
      (congrArg _ (openRule_rejected ((openRejected_iff m q s).mpr hbad) p))

/-- Settles O11: the arm of the started window decides between OK and ZERO_LENGTH. -/
theorem startArmsTheFirstChunk : Obligations.StartArmsTheFirstChunk := by
  intro s p q hq
  have hexec : exec (.start p) s = .next (startRule p q s) := exec_onPort_ready hq .start
  refine ⟨fun hbad => hexec.trans (congrArg _ (startRule_rejected hbad p q)), fun ho he => ?_⟩
  intro w0 c w1 pv
  exact ⟨fun hc => ⟨[], hexec.trans (congrArg _ (startRule_armed ho he hc p q))⟩,
    fun hc => ⟨[], hexec.trans (congrArg _ (startRule_zeroLength ho he hc p q))⟩⟩

/-- Settles O12: whatever the draw, STOP ends with the engine Idle and the port finished. -/
theorem stopIdlesTheEngine : Obligations.StopIdlesTheEngine := by
  intro s p q hq
  have hexec : exec (.stop p) s = .next ((s.setEngine .idle).stopChannel.finish p .ok 0#32) :=
    exec_onPort_ready hq .stop
  refine ⟨fun hinactive => ?_, fun hactive => ⟨s.draws + 1, ?_⟩⟩
  · rw [hexec, State.stopChannel_inactive (s := s.setEngine .idle) hinactive]
    rfl
  · obtain hdrain | habort := State.stopChannel_active (s := s.setEngine .idle) hactive
    · exact .inr (by rw [hexec, hdrain]; rfl)
    · exact .inl (by rw [hexec, habort]; rfl)

/-- Settles O10: ENGINE alone decides. -/
theorem closeEndsTheSession : Obligations.CloseEndsTheSession := by
  intro s p q hq
  have hexec : exec (.close p) s = .next (closeRule p q s) := exec_onPort_ready hq .close
  exact ⟨fun hidle => hexec.trans (congrArg _ (closeRule_idle hidle p q)),
    fun hrun => hexec.trans (congrArg _ (closeRule_running hrun p q))⟩

/-- Settles O33: the two equations of arm; in the model it also clears the raced addresses. -/
theorem armResetsThenPrograms : Obligations.ArmResetsThenPrograms :=
  fun _ => ⟨fun hempty => ⟨[], State.arm_zero hempty⟩, fun hsome => ⟨[], State.arm_ok hsome⟩⟩

end Sys2Proof.Machine
end

section
/-! # The Completion Handler's steps

What COMPLETE and NOTIFY leave, one equation per outcome (42_completion.md R190, R195). COMPLETE's window work is the
commit with its wrap, the latched swap and the next chunk, in that order; the arm of that chunk decides the rest. -/

namespace Sys2Proof.Machine

/-! ### COMPLETE's window work -/

/-- The window with its finished chunk committed and its position wrapped (40_tracker.md R136), the chunk not yet next. -/
def Window.committed (w : Window) : Window :=
  { w with pos := if w.fin.toNat ≤ (w.pos + w.chunk).toNat then w.start else w.pos + w.chunk }

theorem Window.trackNext_eq_committed (w : Window) : w.trackNext = w.committed.nextChunk := w.trackNext_eq

theorem Window.nextChunk_chunk_eq_zero (w : Window) :
    w.nextChunk.chunk = 0#32 ↔ min w.period.toNat (w.fin.toNat - w.pos.toNat) = 0 := by
  rw [← BitVec.toNat_inj, w.nextChunk_chunk_toNat]
  rfl

/-- The window that COMPLETE commits: the finished chunk, the wrap, and the swap if one is latched (42_completion.md
R190). -/
def State.committedWindow (s : State) : Window := (s.setWin s.win.committed).swappedWindow

theorem State.committedWindow_latched {s : State} (h : s.swapLatched = true) :
    s.committedWindow = s.win.committed.swapTo s.pendAddr := by
  rw [Window.swapTo_eq]
  exact if_pos (s.swapLatched_iff.mp h)

theorem State.committedWindow_unlatched {s : State} (h : ¬ s.swapLatched = true) :
    s.committedWindow = s.win.committed :=
  if_neg (mt s.swapLatched_iff.mpr h)

/-- COMPLETE leaves PEND_VALID as START does: a latched swap is applied in FRAME mode, so there the latch ends clear. -/
theorem State.latchAfterStart_latched {s : State} (h : s.swapLatched = true) : s.latchAfterStart = false :=
  if_pos (s.swapLatched_iff.mp h).1

theorem State.latchAfterStart_unlatched {s : State} (h : ¬ s.swapLatched = true) : s.latchAfterStart = s.pendValid := by
  unfold State.latchAfterStart
  split
  next hm => exact (Bool.eq_false_iff.mpr fun hv => h (s.swapLatched_iff.mpr ⟨hm, hv⟩)).symm
  next => rfl

/-- COMPLETE's window work, with what the swap leaves written out: the chunk computed before the swap does not count. -/
theorem State.completeWindow_eq_committed (s : State) : s.completeWindow =
    { s with win := s.committedWindow.nextChunk, pendValid := s.latchAfterStart } := by
  unfold State.completeWindow
  split
  next h =>
    rw [State.committedWindow_latched h, State.latchAfterStart_latched h, Window.trackNext_eq_committed]
    rfl
  next h =>
    rw [State.committedWindow_unlatched h, State.latchAfterStart_unlatched h, Window.trackNext_eq_committed]
    rfl

/-! ### COMPLETE -/

theorem NotifyKind.ofMode_eq (m : Mode) : NotifyKind.ofMode m = if m = .frame then .frame else .period := by
  cases m <;> rfl

/-- A re-arm of a chunk arms the channel with the window (42_completion.md R190). -/
theorem State.rearm_armed {s : State} (h : s.win.chunk ≠ 0#32) : s.rearm =
    { s with
      ch := { active := true, src := s.win.pos, dst := s.win.sink, len := s.win.chunk, rem := s.win.chunk, done := false }
      raced := [] } := by
  rw [State.rearm, State.arm_ok h]

/-- A re-arm without a chunk only resets the channel, idles the engine and raises FAULT(ZERO_LENGTH). -/
theorem State.rearm_zeroLength {s : State} (h : s.win.chunk = 0#32) : s.rearm =
    { s with
      ch := { s.ch with active := false, done := false, rem := 0#32 }
      engine := .idle
      faultZl := true
      irqStatus := s.irqStatus ||| 0b10#2
      raced := [] } := by
  rw [State.rearm, State.arm_zero h]
  rfl

/-- An enabled COMPLETE is `State.complete` (42_completion.md R190). -/
theorem exec_complete_enabled {s : State} (hd : s.ch.done = true) (hn : s.notifyPending = .none) :
    exec .complete s = .next s.complete := by
  simp [exec, execComplete, State.completeEnabled, hd, hn]

theorem State.complete_idle {s : State} (h : s.engine = .idle) : s.complete = s.setCh { s.ch with done := false } :=
  if_neg (by simp [h])

/-- COMPLETE of a running engine: the acknowledge, the window work, the re-arm, the handover to NOTIFY. -/
theorem State.complete_running {s : State} (h : s.engine = .running) : s.complete = State.setNotify
    (if s.mode = .frame then .frame else .period)
    (State.rearm { s with
      ch := { s.ch with done := false }, win := s.committedWindow.nextChunk, pendValid := s.latchAfterStart }) := by
  rw [← NotifyKind.ofMode_eq]
  refine (if_pos h).trans ?_
  rw [State.completeWindow_eq_committed]
  rfl

/-! ### NOTIFY -/

theorem Port.release_eq (g : Word) (q : Port) : q.release g =
    if q.busy = true ∧ reached g q.waitTarget = true then { q with result := 1#32, code := .ok, busy := false } else q := by
  simp [Port.release]

theorem State.notify_of_period {s : State} (h : s.notifyPending = .period) : s.notify =
    { s with notifyPending := .none, periodCount := s.periodCount + 1#32, irqStatus := setPE s.irqStatus } :=
  if_neg (by simp [h])

theorem State.notify_of_frame {s : State} (h : s.notifyPending = .frame) : s.notify = State.frameDone
    { s with notifyPending := .none, periodCount := s.periodCount + 1#32, irqStatus := setPE s.irqStatus } :=
  if_pos h

/-! ### The obligations on the Completion Handler -/

/-- Settles O18: ENGINE decides whether the completion is spurious, and the arm of the committed window's chunk whether
the engine goes on. -/
theorem completeCommitsAndRearms : Obligations.CompleteCommitsAndRearms := by
  intro s hd hn
  rw [exec_complete_enabled hd hn]
  refine ⟨fun hidle => congrArg _ (State.complete_idle hidle), fun hrun => ?_⟩
  intro moved w1 w2 c w3 pv n
  have hchunk : w3.chunk = 0#32 ↔ c = 0 := s.committedWindow.nextChunk_chunk_eq_zero
  rw [State.complete_running hrun]
  refine ⟨fun hc => ⟨[], ?_⟩, fun hc => ⟨[], ?_⟩⟩
  · rw [State.rearm_armed (mt hchunk.mp hc)]
    rfl
  · rw [State.rearm_zeroLength (hchunk.mpr hc)]
    rfl

/-- Settles O19: either notification is an enabled NOTIFY, and a frame's releases every port by one rule. -/
theorem notifyCountsAndReleases : Obligations.NotifyCountsAndReleases := by
  intro s
  refine ⟨fun hp => ?_, fun hp => ?_⟩ <;> rw [exec_notify_of_pending (by simp [hp])]
  · rw [State.notify_of_period hp]
    rfl
  · simp only [State.notify_of_frame hp, State.frameDone, ← Port.release_eq]
    rfl

end Sys2Proof.Machine
end

section
/-! # The Position Reporter's answers

How GETOFF ends in each session (43_position.md R220). -/

namespace Sys2Proof.Machine

theorem getoffRule_closed {s : State} (h : s.session = .closed) (p : Nat) (q : Port) :
    getoffRule p q s = s.finish p .invalidConfig 0#32 :=
  if_pos h

theorem getoffRule_opened {s : State} (h : s.session = .opened) (p : Nat) (q : Port) :
    getoffRule p q s = s.finish p .ok (word s.offset) :=
  if_neg (by simp [h])

/-- Settles O13: the session alone decides, and `State.offset` is the clamped sum that the rule names. -/
theorem getoffReportsTheOffset : Obligations.GetoffReportsTheOffset := by
  intro s p q hq
  have hexec : exec (.getoff p) s = .next (getoffRule p q s) := exec_onPort_ready hq .getoff
  refine ⟨fun hclosed => hexec.trans (congrArg _ (getoffRule_closed hclosed p q)), fun hopened => ?_⟩
  intro inflight off
  have hoff : s.offset = if off ≥ s.win.len.toNat then 0 else off := rfl
  rw [hexec, getoffRule_opened hopened, hoff]

end Sys2Proof.Machine
end

section
/-! # The Vsync/Swap variant's answers

How REQADDR and WAITGEN end with no session and in a FRAME session (44_vsync.md R245, R250). Their endings in a PERIOD
session are `reqaddrRule_period` and `waitgenRule_period`. -/

namespace Sys2Proof.Machine

/-! ### REQADDR -/

theorem reqaddrRule_closed {s : State} (h : s.session = .closed) (p : Nat) (q : Port) :
    reqaddrRule p q s = s.finish p .invalidConfig 0#32 :=
  if_pos h

/-- In FRAME mode the buffer's end alone decides (44_vsync.md R245). -/
theorem reqaddrRule_frame {s : State} (hs : s.session = .opened) (hm : s.mode = .frame) (p : Nat) (q : Port) :
    reqaddrRule p q s = if maxAddr < q.arg0.toNat + s.win.len.toNat then s.finish p .invalidConfig 0#32
      else State.finish p .ok s.token { s with pendAddr := q.arg0, pendValid := true } := by
  simp [reqaddrRule, hs, hm]

/-! ### WAITGEN -/

theorem waitgenRule_closed {s : State} (h : s.session = .closed) (p : Nat) (q : Port) :
    waitgenRule p q s = s.finish p .invalidConfig 0#32 :=
  if_pos h

/-- In FRAME mode a target that is reached ends the wait at once, and so does a timeout of 0 (44_vsync.md R250). -/
theorem waitgenRule_frame {s : State} (hs : s.session = .opened) (hm : s.mode = .frame) (p : Nat) (q : Port) :
    waitgenRule p q s = if reached s.gen q.arg0 then s.finish p .ok 1#32
      else if q.arg1 = 0#32 then s.finish p .ok 0#32 else s.updPort p Port.block := by
  simp [waitgenRule, hs, hm]

/-- A port that blocks latches its own ARG registers, here by the values they have (44_vsync.md R250). -/
theorem State.updPort_block {s : State} {p : Nat} {q : Port} (h : s.ports[p]? = some q) :
    s.updPort p Port.block = { s with ports := s.ports.modify p fun r =>
      { r with waitTarget := q.arg0, waitTmo := q.arg1, busy := true } } :=
  (State.updPort_eq_set h Port.block).trans
    (State.updPort_eq_set h fun r => { r with waitTarget := q.arg0, waitTmo := q.arg1, busy := true }).symm

/-! ### The obligations on the Vsync/Swap variant -/

/-- Settles O14: the session, then the mode, then the requested buffer's end decide. -/
theorem reqaddrLatchesTheSwap : Obligations.ReqaddrLatchesTheSwap := by
  intro s p q hq
  have hexec : exec (.reqaddr p) s = .next (reqaddrRule p q s) := exec_onPort_ready hq .reqaddr
  rw [hexec]
  refine ⟨fun hclosed => congrArg _ (reqaddrRule_closed hclosed p q),
    fun hopened hperiod => congrArg _ (reqaddrRule_period hopened hperiod p q),
    fun hopened hframe hover => ?_, fun hopened hframe hfits => ?_⟩ <;>
    rw [reqaddrRule_frame hopened hframe]
  · rw [if_pos hover]
  · rw [if_neg hfits.not_gt, State.token]

/-- Settles O15: the session and the mode decide first, then the target and the timeout; a wait that blocks latches the
port's ARG registers. -/
theorem waitgenBlocksOrEnds : Obligations.WaitgenBlocksOrEnds := by
  intro s p q hq
  have hexec : exec (.waitgen p) s = .next (waitgenRule p q s) := exec_onPort_ready hq .waitgen
  obtain ⟨hport, -⟩ := hq
  rw [hexec]
  refine ⟨fun hclosed => congrArg _ (waitgenRule_closed hclosed p q),
    fun hopened hperiod => congrArg _ (waitgenRule_period hopened hperiod p q),
    fun hopened hframe hreached => ?_, fun hopened hframe hnot hpoll => ?_, fun hopened hframe hnot hblock => ?_⟩ <;>
    rw [waitgenRule_frame hopened hframe]
  · rw [if_pos hreached]
  · rw [if_neg (Bool.eq_false_iff.mp hnot), if_pos hpoll]
  · rw [if_neg (Bool.eq_false_iff.mp hnot), if_neg hblock, State.updPort_block hport]

end Sys2Proof.Machine
end

section
/-! # What an instruction does to one port

One inversion per port slot: what an instruction leaves in it; the obligation on the writers of CODE and RESULT
(45_host_interface.md R278) is read off it. -/

namespace Sys2Proof.Machine

/-! ### The ports after each operation -/

/-- A command writes no port but its own (45_host_interface.md R278). -/
theorem CmdWrites.otherPort {s t : State} {p j : Nat} {c : Cmd} (h : CmdWrites s p c t) (hj : p ≠ j) :
    t.ports[j]? = s.ports[j]? := by
  obtain ⟨_, _, _, _, _, _, _, _, _, _, rfl, -⟩ := h.frame
  exact List.getElem?_modify_ne _ _ hj

theorem CompleteWrites.ports {s t : State} (h : CompleteWrites s t) : t.ports = s.ports := by
  obtain ⟨_, _, _, _, _, _, _, _, rfl⟩ := h.frame
  rfl

theorem State.beat_ports (k : Nat) (s : State) : (s.beat k).ports = s.ports := by
  obtain ⟨_, _, _, _, hmoved, -⟩ := s.moveBytes_frame k s.ch.next
  rw [State.beat, hmoved]
  rfl

theorem Port.setArg_answer (k : Fin 4) (v : Word) (q : Port) :
    ((q.setArg k v).code, (q.setArg k v).result) = (q.code, q.result) := by
  unfold Port.setArg
  split_ifs <;> rfl

/-- A release that shows in CODE or RESULT ends a wait (42_completion.md R195). -/
theorem Port.release_ends_wait {g : Word} {q : Port}
    (h : ((q.release g).code, (q.release g).result) ≠ (q.code, q.result)) :
    q.busy = true ∧ (q.release g).busy = false := by
  rw [Port.release_eq] at h ⊢
  split_ifs at h ⊢ with hrel
  · exact ⟨hrel.1, rfl⟩
  · exact absurd rfl h

/-! ### The inversion at one port -/

/-- What an instruction that answers `t` has done to port slot `p`: nothing, or it is a command on `p`, a write to one
of its ARG registers, the end of its wait, or RESET. -/
inductive PortEffect (s t : State) (i : Instr) (p : Nat) : Prop where
  | kept (ht : t.ports[p]? = s.ports[p]?)
  | command (hi : i.cmdPort = some p)
  | arg (off : BitVec 12) (v : Word) (k : Fin 4) (hi : i = .mmioWrite off .w32 v) (hr : regOf off = .arg p k)
      (ht : t.ports[p]? = (s.ports[p]?).map (Port.setArg k v))
  | release (hi : i = .notify) (ht : t.ports[p]? = (s.ports[p]?).map (Port.release (s.gen + 1#32)))
  | timeout (q : Port) (hi : i = .waitTimeout p) (hq : s.ports[p]? = some q) (hb : q.busy = true)
      (ht : t.ports[p]? = some (q.finish .ok 0#32))
  | reset (hi : i = .reset) (ht : t = s.blockReset)

/-- NOTIFY releases each port on a frame, and leaves the ports alone on a period (42_completion.md R195). -/
theorem State.notify_portEffect (s : State) (p : Nat) : PortEffect s s.notify .notify p := by
  unfold State.notify
  split
  · exact .release rfl List.getElem?_map
  · exact .kept rfl

theorem exec_portEffect {i : Instr} {s t : State} (h : exec i s = .next t) (p : Nat) : PortEffect s t i p := by
  cases exec_effect h with
  | command _ p' c q _ hp _ =>
    obtain rfl | hne := eq_or_ne p' p
    · exact .command hp
    · exact .kept ((runCmd_writes p' c q s).otherPort hne)
  | illegal _ p' _ _ hp _ =>
    obtain rfl | hne := eq_or_ne p' p
    · exact .command hp
    · exact .kept (List.getElem?_modify_ne _ _ hne)
  | beat k _ _ => exact .kept (by rw [s.beat_ports k])
  | complete _ => exact .kept (by rw [(complete_writes s).ports])
  | notify _ => exact s.notify_portEffect p
  | waitTimeout p' q hq hb =>
    obtain rfl | hne := eq_or_ne p' p
    · exact .timeout q rfl hq hb (by simp [hq])
    · exact .kept (List.getElem?_modify_ne _ _ hne)
  | reset => exact .reset rfl rfl
  | arg off v p' k hr =>
    obtain rfl | hne := eq_or_ne p' p
    · exact .arg off v k rfl hr (by simp)
    · exact .kept (List.getElem?_modify_ne _ _ hne)
  | _ => exact .kept rfl

/-! ### The obligation on CODE and RESULT -/

/-- Settles O46: of what an instruction can do to a port, an ARG write keeps CODE and RESULT, and a release that changes
them ends a wait. -/
theorem portsKeepTheirOwnResults : Obligations.PortsKeepTheirOwnResults := by
  intro i s t p q r h hq hr hne
  cases exec_portEffect h p with
  | kept ht =>
    obtain rfl : r = q := by simpa [hr, hq] using ht
    exact absurd rfl hne
  | command hi => exact .inl hi
  | arg off v k _ _ ht =>
    obtain rfl : r = q.setArg k v := by simpa [hr, hq] using ht
    exact absurd (Port.setArg_answer k v q) hne
  | release hi ht =>
    obtain rfl : r = q.release (s.gen + 1#32) := by simpa [hr, hq] using ht
    exact .inr (.inl ⟨.inl hi, Port.release_ends_wait hne⟩)
  | timeout q' hi hq' hb ht =>
    obtain rfl : q = q' := by simpa [hq] using hq'
    obtain rfl : r = q.finish .ok 0#32 := by simpa [hr] using ht
    exact .inr (.inl ⟨.inr hi, hb, rfl⟩)
  | reset hi _ => exact .inr (.inr hi)

end Sys2Proof.Machine
end

section
/-! # The interrupt's two sources

One inversion says which instruction can have written IRQ_STATUS, IRQ_ENABLE or FAULT_ZL; the obligation on the line and its
sources (60_exceptions.md R310) is read off it, one lemma per way that a bit can move. -/

namespace Sys2Proof.Machine

/-! ### The bits of IRQ_STATUS -/

/-- NOTIFY sets PE, bit 0, and keeps the other (42_completion.md R195). -/
theorem setPE_getLsbD (b : BitVec 2) {j : Nat} (hj : j < 2) : (setPE b).getLsbD j = (b.getLsbD j || decide (j = 0)) := by
  obtain rfl | rfl : j = 0 ∨ j = 1 := by omega
  all_goals simp [setPE]

/-- A raised fault sets FAULT, bit 1, and keeps the other (60_exceptions.md R306). -/
theorem or_fault_getLsbD (b : BitVec 2) {j : Nat} (hj : j < 2) :
    (b ||| 0b10#2).getLsbD j = (b.getLsbD j || decide (j = 1)) := by
  obtain rfl | rfl : j = 0 ∨ j = 1 := by omega
  all_goals simp

/-- The line is the OR of the enabled pending bits (60_exceptions.md R310). -/
theorem State.irqLine_iff (s : State) : s.irqLine = true ↔
    (s.irqStatus.getLsbD 0 = true ∧ s.irqEnable.getLsbD 0 = true)
      ∨ (s.irqStatus.getLsbD 1 = true ∧ s.irqEnable.getLsbD 1 = true) := by
  have hne : ∀ x : BitVec 2, x ≠ 0#2 ↔ x.getLsbD 0 = true ∨ x.getLsbD 1 = true := by decide
  simp only [State.irqLine, decide_eq_true_eq, hne, BitVec.getLsbD_and, Bool.and_eq_true]

/-! ### The inversion -/

/-- `t` has the interrupt registers and the sticky fault bit of `s`. -/
structure State.KeepsIrq (s t : State) : Prop where
  status : t.irqStatus = s.irqStatus
  enable : t.irqEnable = s.irqEnable
  faultZl : t.faultZl = s.faultZl

/-- What an instruction that answers `t` has done to the interrupt registers: nothing, or it is one of their writers. -/
inductive IrqEffect (s t : State) (i : Instr) : Prop where
  | kept (hk : s.KeepsIrq t)
  | notified (hi : i = .notify) (hs : t.irqStatus = setPE s.irqStatus) (he : t.irqEnable = s.irqEnable)
      (hf : t.faultZl = s.faultZl)
  | faulted (hi : i = .complete) (hs : t.irqStatus = s.irqStatus ||| 0b10#2) (he : t.irqEnable = s.irqEnable)
      (hf : t.faultZl = true)
  | acknowledged (v : Word) (hi : i = .mmioWrite 0x00C#12 .w32 v) (hs : t.irqStatus = clearOnes s.irqStatus v)
      (he : t.irqEnable = s.irqEnable) (hf : t.faultZl = s.faultZl)
  | enabled (v : Word) (hi : i = .mmioWrite 0x010#12 .w32 v) (hs : t.irqStatus = s.irqStatus) (hf : t.faultZl = s.faultZl)
  | reset (hi : i = .reset) (ht : t = s.blockReset)

/-- A command sets no pending bit and no enable, and raises no fault. -/
theorem CmdWrites.keepsIrq {s t : State} {p : Nat} {c : Cmd} (h : CmdWrites s p c t) : s.KeepsIrq t := by
  obtain ⟨_, _, _, _, _, _, _, _, _, _, rfl, -⟩ := h.frame
  exact ⟨rfl, rfl, rfl⟩

theorem State.beat_keepsIrq (k : Nat) (s : State) : s.KeepsIrq (s.beat k) := by
  obtain ⟨_, _, _, _, hmoved, -⟩ := s.moveBytes_frame k s.ch.next
  rw [State.beat, hmoved]
  exact ⟨rfl, rfl, rfl⟩

@[simp] theorem State.notify_irqStatus (s : State) : s.notify.irqStatus = setPE s.irqStatus := by
  unfold State.notify
  split <;> rfl

@[simp] theorem State.notify_irqEnable (s : State) : s.notify.irqEnable = s.irqEnable := by
  unfold State.notify
  split <;> rfl

theorem CompleteWrites.irqEnable {s t : State} (h : CompleteWrites s t) : t.irqEnable = s.irqEnable := by
  obtain ⟨_, _, _, _, _, _, _, _, rfl⟩ := h.frame
  rfl

/-- COMPLETE sets FAULT exactly where it raises FAULT(ZERO_LENGTH) (42_completion.md R190). -/
theorem CompleteWrites.irqEffect {s t : State} (h : CompleteWrites s t) : IrqEffect s t .complete := by
  obtain ⟨-, hstatus, hfault⟩ | ⟨-, -, hfault, hstatus⟩ := h.engine
  · exact .kept ⟨hstatus, h.irqEnable, hfault⟩
  · exact .faulted rfl hstatus h.irqEnable hfault

theorem exec_irqEffect {i : Instr} {s t : State} (h : exec i s = .next t) : IrqEffect s t i := by
  cases exec_effect h with
  | command _ p c q _ _ _ => exact .kept (runCmd_writes p c q s).keepsIrq
  | beat k _ _ => exact .kept (s.beat_keepsIrq k)
  | complete _ => exact (complete_writes s).irqEffect
  | notify _ => exact .notified rfl s.notify_irqStatus s.notify_irqEnable s.notify_keepsControl.faultZl
  | reset => exact .reset rfl rfl
  | irqStatus off v hr =>
    obtain rfl := regOf_irqStatus hr
    exact .acknowledged v rfl rfl rfl rfl
  | irqEnable off v hr =>
    obtain rfl := regOf_irqEnable hr
    exact .enabled v rfl rfl rfl
  | _ => exact .kept ⟨rfl, rfl, rfl⟩

/-! ### How the bits move -/

/-- PE rises by NOTIFY alone, and FAULT by a COMPLETE that raises the fault (60_exceptions.md R310). -/
theorem IrqEffect.of_rise {s t : State} {i : Instr} (h : IrqEffect s t i) {j : Nat} (hj : j < 2)
    (hs : s.irqStatus.getLsbD j = false) (ht : t.irqStatus.getLsbD j = true) :
    (j = 0 ∧ i = .notify) ∨ (j = 1 ∧ i = .complete ∧ t.faultZl = true) := by
  cases h with
  | kept hk => simp [hk.status, hs] at ht
  | notified hi hset _ _ => exact .inl ⟨by simpa [hset, setPE_getLsbD _ hj, hs] using ht, hi⟩
  | faulted hi hset _ hf =>
    rw [hset, or_fault_getLsbD _ hj, hs] at ht
    exact .inr ⟨by simpa using ht, hi, hf⟩
  | acknowledged v _ hclear _ _ => simp [hclear, clearOnes_getLsbD _ _ hj, hs] at ht
  | enabled _ _ hkept _ => simp [hkept, hs] at ht
  | reset _ hreset => simp [hreset, State.blockReset, State.reset] at ht

/-- A pending bit falls by a write of 1 to it and by RESET alone (60_exceptions.md R310). -/
theorem IrqEffect.of_fall {s t : State} {i : Instr} (h : IrqEffect s t i) {j : Nat} (hj : j < 2)
    (hs : s.irqStatus.getLsbD j = true) (ht : t.irqStatus.getLsbD j = false) :
    i = .reset ∨ ∃ v, i = .mmioWrite 0x00C#12 .w32 v ∧ v.getLsbD j = true := by
  cases h with
  | kept hk => simp [hk.status, hs] at ht
  | notified _ hset _ _ => simp [hset, setPE_getLsbD _ hj, hs] at ht
  | faulted _ hset _ _ =>
    rw [hset, or_fault_getLsbD _ hj, hs] at ht
    cases ht
  | acknowledged v hi hclear _ _ => exact .inr ⟨v, hi, by simpa [hclear, clearOnes_getLsbD _ _ hj, hs] using ht⟩
  | enabled _ _ hkept _ => simp [hkept, hs] at ht
  | reset hi _ => exact .inl hi

/-- The enables change by a host write to IRQ_ENABLE and by RESET alone (60_exceptions.md R310). -/
theorem IrqEffect.of_enable_ne {s t : State} {i : Instr} (h : IrqEffect s t i) (hne : t.irqEnable ≠ s.irqEnable) :
    i = .reset ∨ ∃ v, i = .mmioWrite 0x010#12 .w32 v := by
  cases h with
  | kept hk => exact absurd hk.enable hne
  | notified _ _ he _ => exact absurd he hne
  | faulted _ _ he _ => exact absurd he hne
  | acknowledged _ _ _ he _ => exact absurd he hne
  | enabled v hi _ _ => exact .inr ⟨v, hi⟩
  | reset hi _ => exact .inl hi

/-- An instruction that raises FAULT(ZERO_LENGTH) sets FAULT with it (60_exceptions.md R306). -/
theorem IrqEffect.fault_of_faultZl {s t : State} {i : Instr} (h : IrqEffect s t i) (hs : s.faultZl = false)
    (ht : t.faultZl = true) : t.irqStatus.getLsbD 1 = true := by
  have hraised : t.faultZl ≠ s.faultZl := by simp [hs, ht]
  cases h with
  | kept hk => exact absurd hk.faultZl hraised
  | notified _ _ _ hf => exact absurd hf hraised
  | faulted _ hset _ _ => simp [hset]
  | acknowledged _ _ _ _ hf => exact absurd hf hraised
  | enabled _ _ _ hf => exact absurd hf hraised
  | reset _ hreset => cases ht.symm.trans (congrArg State.faultZl hreset)

/-- RESET and a host write of 1 leave the bit clear (10_state.md R39, R60). -/
theorem exec_clears_irqStatus {i : Instr} {s t : State} (h : exec i s = .next t) {j : Nat} (hj : j < 2)
    (hi : i = .reset ∨ ∃ v, i = .mmioWrite 0x00C#12 .w32 v ∧ v.getLsbD j = true) : t.irqStatus.getLsbD j = false := by
  obtain rfl | ⟨v, rfl, hv⟩ := hi
  · cases h
    exact BitVec.getLsbD_zero
  · rw [exec_mmioWrite_w32 (r := .irqStatus) (by decide) rfl] at h
    cases h
    simp [State.regWrite, clearOnes_getLsbD _ _ hj, hv]

/-- Settles O31: each clause is one way for a bit to move; that NOTIFY and a write of 1 do take effect is their own rule. -/
theorem irqSourcesAndLine : Obligations.IrqSourcesAndLine := by
  refine ⟨State.irqLine_iff, fun i s t h => ?_⟩
  have heff : IrqEffect s t i := exec_irqEffect h
  refine ⟨fun hs ht => ?_, fun hs ht => ?_, fun j hj hs ht => heff.of_fall hj hs ht, heff.of_enable_ne, fun hi hp => ?_,
    heff.fault_of_faultZl, fun j hj hi => exec_clears_irqStatus h hj hi⟩
  · obtain ⟨-, hi⟩ | ⟨hj, -⟩ := heff.of_rise (by decide) hs ht
    · exact hi
    · cases hj
  · obtain ⟨hj, -⟩ | ⟨-, hi, hfault⟩ := heff.of_rise (by decide) hs ht
    · cases hj
    · exact ⟨hi, hfault⟩
  · subst hi
    cases (exec_notify_of_pending hp).symm.trans h
    rw [State.notify_irqStatus, setPE_getLsbD _ (by decide)]
    simp

end Sys2Proof.Machine
end

section
/-! # How a command ends

One inversion says how the issue of a command word can end, and with it what a failed command changes; the causes of the
status codes (60_exceptions.md R301, R302) are the equations of the rules. -/

namespace Sys2Proof.Machine

/-- A legal word on a port that can take it is its command's rule (45_host_interface.md R275). -/
theorem State.issue_ready {s : State} {p : Nat} {q : Port} {w : Word} {c : Cmd} (hq : s.Ready p q)
    (hw : decodeCmd w = .ok c) : s.issue p w = runCmd p c q s := by
  obtain ⟨hport, hbusy⟩ := hq
  rw [State.issue_of_decode hw, State.onPort_ready _ hport hbusy]

/-- `arm` refuses exactly the empty chunk (41_engine.md R150). -/
theorem State.arm_result_zero_iff (s : State) : s.arm.2 = .armZero ↔ s.win.chunk = 0#32 := by
  by_cases h : s.win.chunk = 0#32
  · simp [State.arm_zero h, h]
  · simp [State.arm_ok h, h]

@[simp] theorem State.stopChannel_ports (s : State) : s.stopChannel.ports = s.ports := by
  unfold State.stopChannel
  split <;> rfl

/-- The ways the issue of a word on port `p` can end: it fails and the block stays, it arms an empty chunk, it ends with
OK, or it blocks. -/
inductive CommandEnd (s : State) (p : Nat) : State → Prop where
  | failed (c : Code) : CommandEnd s p (s.finish p c 0#32)
  | zeroLength (u : State) (hu : u.ports = s.ports) : CommandEnd s p (u.finish p .zeroLength 0#32)
  | ok (u : State) (x : Word) (hu : u.ports = s.ports) : CommandEnd s p (u.finish p .ok x)
  | blocked : CommandEnd s p (s.updPort p Port.block)

theorem openRule_end (p : Nat) (m : Mode) (q : Port) (s : State) : CommandEnd s p (openRule p m q s) := by
  by_cases h : openRejected m q s = true
  · rw [openRule_rejected h]
    exact .failed _
  · rw [openRule_accepted h]
    exact .ok _ _ rfl

theorem closeRule_end (p : Nat) (q : Port) (s : State) : CommandEnd s p (closeRule p q s) := by
  cases h : s.engine with
  | running =>
    rw [closeRule_running h]
    exact .failed _
  | idle =>
    rw [closeRule_idle h]
    exact .ok _ _ rfl

theorem startRule_end (p : Nat) (q : Port) (s : State) : CommandEnd s p (startRule p q s) := by
  by_cases hbad : s.session = .closed ∨ s.engine = .running
  · rw [startRule_rejected hbad]
    exact .failed _
  obtain ⟨hs, he⟩ := not_or.mp hbad
  by_cases hc : s.firstChunk = 0
  · rw [startRule_zeroLength (Session.eq_opened hs) (EngineState.eq_idle he) hc]
    exact .zeroLength _ rfl
  · rw [startRule_armed (Session.eq_opened hs) (EngineState.eq_idle he) hc]
    exact .ok _ _ rfl

theorem getoffRule_end (p : Nat) (q : Port) (s : State) : CommandEnd s p (getoffRule p q s) := by
  cases h : s.session with
  | closed =>
    rw [getoffRule_closed h]
    exact .failed _
  | opened =>
    rw [getoffRule_opened h]
    exact .ok _ _ rfl

theorem reqaddrRule_end (p : Nat) (q : Port) (s : State) : CommandEnd s p (reqaddrRule p q s) := by
  unfold reqaddrRule
  split_ifs
  iterate 3 exact .failed _
  exact .ok _ _ rfl

theorem waitgenRule_end (p : Nat) (q : Port) (s : State) : CommandEnd s p (waitgenRule p q s) := by
  unfold waitgenRule
  split_ifs
  iterate 2 exact .failed _
  iterate 2 exact .ok _ _ rfl
  exact .blocked

theorem runCmd_end (p : Nat) (c : Cmd) (q : Port) (s : State) : CommandEnd s p (runCmd p c q s) := by
  cases c with
  | openSession m => exact openRule_end p m q s
  | close => exact closeRule_end p q s
  | start => exact startRule_end p q s
  | stop => exact .ok _ _ (by simp)
  | getoff => exact getoffRule_end p q s
  | reqaddr => exact reqaddrRule_end p q s
  | waitgen => exact waitgenRule_end p q s

theorem State.issue_end {s : State} {p : Nat} {q : Port} (hq : s.Ready p q) (w : Word) : CommandEnd s p (s.issue p w) := by
  cases hw : decodeCmd w with
  | error e =>
    rw [State.issue_of_illegal hq hw]
    exact .failed _
  | ok c =>
    rw [State.issue_ready hq hw]
    exact runCmd_end p c q s

/-- The port that a command ends on (45_host_interface.md R276). -/
theorem State.finish_port {s u : State} {p : Nat} {q : Port} (hq : s.ports[p]? = some q) (hu : u.ports = s.ports)
    (c : Code) (x : Word) : (u.finish p c x).ports[p]? = some (q.finish c x) := by
  simp [hu, hq]

/-- 60_exceptions.md R302: a command that fails has RESULT 0, and but for ZERO_LENGTH it changes its port alone. -/
theorem CommandEnd.of_failed {s t : State} {p : Nat} {q r : Port} (h : CommandEnd s p t) (hq : s.Ready p q)
    (hr : t.ports[p]? = some r) (hbusy : r.busy = false) (hcode : r.code ≠ .ok) :
    r.result = 0#32 ∧ (r.code ≠ .zeroLength → t = s.finish p r.code 0#32) := by
  obtain ⟨hport, -⟩ := hq
  cases h with
  | failed c =>
    cases (State.finish_port hport rfl c 0#32).symm.trans hr
    exact ⟨rfl, fun _ => rfl⟩
  | zeroLength u hu =>
    cases (State.finish_port hport hu .zeroLength 0#32).symm.trans hr
    exact ⟨rfl, fun hne => absurd rfl hne⟩
  | ok u x hu =>
    cases (State.finish_port hport hu .ok x).symm.trans hr
    exact absurd rfl hcode
  | blocked =>
    obtain rfl : q.block = r := by simpa [hport] using hr
    cases hbusy

/-- Settles O36: each row is an equation of its command's rule, and the frame is read off how the command ended. -/
theorem causesOfEveryCode : Obligations.CausesOfEveryCode := by
  intro s p q w hq
  have hrun {c : Cmd} (hw : decodeCmd w = .ok c) : s.issue p w = runCmd p c q s := State.issue_ready hq hw
  refine ⟨fun hillegal => ?_, fun m hw hbad => ?_, fun hw he => ?_, fun hw hbad => ?_, fun hw hs he harm => ?_,
    fun hw => ⟨_, hrun hw⟩, fun hw hs => ?_, fun hw => ⟨fun hs => ?_, fun hs hm => ?_, fun hs hm hover => ?_⟩,
    fun hw => ⟨fun hs => ?_, fun hs hm => ?_⟩, fun r hr hb hc => ?_⟩
  · cases hw : decodeCmd w with
    | error e => exact State.issue_of_illegal hq hw
    | ok c => exact absurd hw (hillegal c)
  · exact (hrun hw).trans (openRule_rejected ((openRejected_iff m q s).mpr hbad) p)
  · exact (hrun hw).trans (closeRule_running he p q)
  · exact (hrun hw).trans (startRule_rejected hbad p q)
  · have hempty : s.firstChunk = 0 := s.startWindow_chunk_eq_zero.mp (s.startWindow.arm_result_zero_iff.mp harm)
    exact ⟨_, (hrun hw).trans (startRule_zeroLength hs he hempty p q)⟩
  · exact (hrun hw).trans (getoffRule_closed hs p q)
  · exact (hrun hw).trans (reqaddrRule_closed hs p q)
  · exact (hrun hw).trans (reqaddrRule_period hs hm p q)
  · exact (hrun hw).trans ((reqaddrRule_frame hs hm p q).trans (if_pos hover))
  · exact (hrun hw).trans (waitgenRule_closed hs p q)
  · exact (hrun hw).trans (waitgenRule_period hs hm p q)
  · exact (State.issue_end hq w).of_failed hq hr hb hc

end Sys2Proof.Machine
end

section
/-! # Commands that are dropped

The command wrapper drops a command on a slot that cannot take it (45_host_interface.md R275, 10_state.md R46), however
the command reaches it. -/

namespace Sys2Proof.Machine

/-- Settles O47: the command and the write to CMD both pass the wrapper, which drops them on such a slot. -/
theorem busyPortDropsCommands : Obligations.BusyPortDropsCommands := by
  intro s p hp
  have hbusy : ∀ q, s.ports[p]? = some q → q.busy = true := by
    intro q hq
    obtain hnone | ⟨r, hr, hb⟩ := hp
    · cases hnone.symm.trans hq
    · cases hr.symm.trans hq
      exact hb
  refine ⟨fun c => ?_, fun off w ho => ?_⟩
  · rw [exec_onPort, State.onPort_dropped _ hbusy]
  · have hr : regOf off = .cmd p := regOf_port off p 0x10 ho (by decide)
    rw [exec_mmioWrite_w32 (by omega) hr, State.regWrite, State.issue, State.onPort_dropped _ hbusy]

end Sys2Proof.Machine
end

section
/-! # The decoder and the encoder are inverse

A command word is its RSVD, M and OP fields and an event record is its four fields (30_encoding.md R100, R108), so each
reader of fields accepts one record for each instruction. The two obligations on the round trip put these together. -/

namespace Sys2Proof

/-! ### Command words -/

/-- The word of a command (30_encoding.md R102). -/
def Cmd.word : Cmd → Word
  | .openSession m => cwWord (bitOfMode m) 0x01#8
  | .close => cwWord 0#1 0x02#8
  | .start => cwWord 0#1 0x03#8
  | .stop => cwWord 0#1 0x04#8
  | .getoff => cwWord 0#1 0x05#8
  | .reqaddr => cwWord 0#1 0x06#8
  | .waitgen => cwWord 0#1 0x07#8

theorem encode_onPort (p : Nat) (c : Cmd) : encode (c.onPort p) = .command p c.word := by
  cases c <;> rfl

theorem Cmd.wellFormed_onPort (p : Nat) (c : Cmd) : (c.onPort p).wellFormed = Instr.portOk p := by
  cases c <;> rfl

theorem decodeCmd_word (c : Cmd) : decodeCmd c.word = .ok c := by
  cases c with
  | openSession m => cases m <;> decide
  | _ => decide

/-- A word whose RSVD is 0 is put together again from its M and OP. -/
theorem cwWord_fields {w : Word} (hr : cwRsvd w = 0#23) : cwWord (BitVec.ofBool (cwM w)) (cwOp w) = w := by
  have hm : BitVec.ofBool (cwM w) = w.extractLsb' 8 1 := by
    apply BitVec.eq_of_getLsbD_eq
    intro j hj
    obtain rfl : j = 0 := by omega
    simp [cwM]
  rw [cwWord, ← hr, hm, cwRsvd, cwOp, BitVec.extractLsb'_append_extractLsb'_eq_extractLsb' (by decide),
    BitVec.extractLsb'_append_extractLsb'_eq_extractLsb' (by decide)]
  exact BitVec.extractLsb'_eq_self

/-- The only word that a command has (30_encoding.md R105). -/
theorem word_of_decodeCmd {w : Word} {c : Cmd} (h : decodeCmd w = .ok c) : c.word = w := by
  have hr : cwRsvd w = 0#23 := by
    by_contra hr
    simp [decodeCmd_of_reserved hr] at h
  rw [← cwWord_fields hr]
  by_cases hopen : cwOp w = 0x01#8
  · cases (decodeCmd_of_open hr hopen).symm.trans h
    rw [hopen]
    cases cwM w <;> rfl
  have hm : cwM w = false := by
    by_contra hm
    simp [decodeCmd_of_modeBit hr hopen (eq_true_of_ne_false hm)] at h
  rw [hm]
  simp only [decodeCmd, hr, hopen, hm, ne_eq, not_true_eq_false, if_false, Bool.false_eq_true] at h
  split_ifs at h with hop hop hop hop hop hop <;> cases h <;> rw [hop] <;> rfl

/-- A command word decodes to its command on its port, where the window has a slot for it. -/
theorem decode_command {p : Nat} {w : Word} {i : Instr} :
    decode (.command p w) = .ok i ↔ p < Config.maxPorts ∧ ∃ c, decodeCmd w = .ok c ∧ c.onPort p = i := by
  by_cases hp : p < Config.maxPorts
  · cases hw : decodeCmd w <;> simp [decode, hp, hw]
  · simp [decode, hp]

/-- The round trip of a command. -/
theorem decode_encode_onPort {p : Nat} (hp : Instr.portOk p = true) (c : Cmd) :
    decode (encode (c.onPort p)) = .ok (c.onPort p) := by
  rw [encode_onPort, decode_command]
  exact ⟨of_decide_eq_true hp, c, decodeCmd_word c, rfl⟩

/-! ### The fields of an event record -/

/-- A 12-bit offset, read back from its 16-bit field. -/
@[simp] theorem offsetOf_evRecord (a : Word) (off : BitVec 12) (x l : BitVec 8) :
    offsetOf (evRecord a (0#4 ++ off) x l) = .ok off := by
  have htop : (0#4 ++ off).extractLsb' 12 4 = 0#4 := BitVec.extractLsb'_append_eq_left
  have hlow : (0#4 ++ off).extractLsb' 0 12 = off := BitVec.extractLsb'_append_eq_right
  rw [offsetOf, evOff_evRecord, if_pos htop, hlow]

theorem evOff_of_offsetOf {r : BitVec 64} {off : BitVec 12} (h : offsetOf r = .ok off) : evOff r = 0#4 ++ off := by
  unfold offsetOf at h
  split at h
  next htop =>
    cases h
    rw [← htop, BitVec.extractLsb'_append_extractLsb'_eq_extractLsb' (by decide)]
    exact BitVec.extractLsb'_eq_self.symm
  next => cases h

@[simp] theorem widthOfCode_codeOfWidth (w : AccessWidth) : widthOfCode (codeOfWidth w) = .ok w := by
  cases w <;> rfl

theorem eq_codeOfWidth {c : BitVec 8} {w : AccessWidth} (h : widthOfCode c = .ok w) : c = codeOfWidth w := by
  unfold widthOfCode at h
  split_ifs at h with hc hc hc hc <;> cases h <;> exact hc

/-- The record with these fields. -/
theorem evRecord_of_fields {r : BitVec 64} {a : Word} {o : BitVec 16} {x l : BitVec 8} (ha : evArg r = a)
    (ho : evOff r = o) (hx : evSel r = x) (hl : evLabel r = l) : evRecord a o x l = r := by
  subst ha ho hx hl
  exact evRecord_fields r

/-! ### What each event's record is -/

/-- Entry `e` is the encoding of `i`, which is well-formed. -/
def Entry.StandsFor (e : Entry) (i : Instr) : Prop := encode i = e ∧ i.wellFormed = true

/-- An event without fields has the record of zeros. -/
theorem plainEvent_ok {r : BitVec 64} {i j : Instr} {l : BitVec 8} (h : plainEvent r i = .ok j) (hl : evLabel r = l) :
    j = i ∧ evRecord 0#32 0#16 0#8 l = r := by
  unfold plainEvent at h
  split at h
  next hz =>
    obtain ⟨hx, ho, ha⟩ := hz
    cases h
    exact ⟨rfl, evRecord_of_fields ha ho hx hl⟩
  next => cases h

theorem decodeBeat_ok {r : BitVec 64} {i : Instr} (h : decodeBeat r = .ok i) (hl : evLabel r = 0x80#8) :
    (Entry.event r).StandsFor i := by
  unfold decodeBeat at h
  split at h
  next hz =>
    obtain ⟨hx, ho⟩ := hz
    cases h
    have hlt := (evArg r).isLt
    refine ⟨congrArg _ (evRecord_of_fields ?_ ho hx hl), decide_eq_true (by omega)⟩
    simp [word]
  next => cases h

theorem decodeWaitTimeout_ok {r : BitVec 64} {i : Instr} (h : decodeWaitTimeout r = .ok i) (hl : evLabel r = 0x83#8) :
    (Entry.event r).StandsFor i := by
  unfold decodeWaitTimeout at h
  split_ifs at h with hz hp
  cases h
  obtain ⟨ho, ha⟩ := not_or.mp hz
  refine ⟨congrArg _ (evRecord_of_fields (not_not.mp ha) (not_not.mp ho) ?_ hl), decide_eq_true hp⟩
  simp

theorem decodeMmioRead_ok {r : BitVec 64} {i : Instr} (h : decodeMmioRead r = .ok i) (hl : evLabel r = 0x90#8) :
    (Entry.event r).StandsFor i := by
  unfold decodeMmioRead at h
  split at h
  next => cases h
  next ha =>
    split at h
    next off w hoff hw =>
      cases h
      exact ⟨congrArg _ (evRecord_of_fields (not_not.mp ha) (evOff_of_offsetOf hoff) (eq_codeOfWidth hw) hl), rfl⟩
    next => cases h
    next => cases h

theorem decodeMmioWrite_ok {r : BitVec 64} {i : Instr} (h : decodeMmioWrite r = .ok i) (hl : evLabel r = 0x91#8) :
    (Entry.event r).StandsFor i := by
  unfold decodeMmioWrite at h
  split at h
  next off w hoff hw =>
    cases h
    exact ⟨congrArg _ (evRecord_of_fields rfl (evOff_of_offsetOf hoff) (eq_codeOfWidth hw) hl), rfl⟩
  next => cases h
  next => cases h

theorem decodeEvent_ok {r : BitVec 64} {i : Instr} (h : decodeEvent r = .ok i) : (Entry.event r).StandsFor i := by
  have plain {l : BitVec 8} {j : Instr} (hl : evLabel r = l) (h : plainEvent r j = .ok i)
      (henc : encode j = .event (evRecord 0#32 0#16 0#8 l)) (hwf : j.wellFormed = true) :
      (Entry.event r).StandsFor i := by
    obtain ⟨rfl, hr⟩ := plainEvent_ok h hl
    exact ⟨henc.trans (congrArg _ hr), hwf⟩
  unfold decodeEvent at h
  split_ifs at h with hl hl hl hl hl hl hl hl
  · exact decodeBeat_ok h hl
  · exact plain hl h rfl rfl
  · exact plain hl h rfl rfl
  · exact decodeWaitTimeout_ok h hl
  · exact plain hl h rfl rfl
  · exact plain hl h rfl rfl
  · exact decodeMmioRead_ok h hl
  · exact decodeMmioWrite_ok h hl

/-! ### The obligations on the round trip -/

/-- Settles O1: a command comes back from its word, and an event from the fields of its record. -/
theorem decodeOfEncodeIsIdentity : Obligations.DecodeOfEncodeIsIdentity := by
  intro i hi
  cases i with
  | openCmd p m => exact decode_encode_onPort hi (.openSession m)
  | close p => exact decode_encode_onPort hi .close
  | start p => exact decode_encode_onPort hi .start
  | stop p => exact decode_encode_onPort hi .stop
  | getoff p => exact decode_encode_onPort hi .getoff
  | reqaddr p => exact decode_encode_onPort hi .reqaddr
  | waitgen p => exact decode_encode_onPort hi .waitgen
  | beat k =>
    obtain ⟨hk, hk'⟩ : 1 ≤ k ∧ k ≤ 2 ^ 32 := of_decide_eq_true hi
    simp [encode, decode, decodeEvent, decodeBeat]
    omega
  | waitTimeout p =>
    have hp : p < Config.maxPorts := of_decide_eq_true hi
    have hsel : p % 256 = p := Nat.mod_eq_of_lt (Nat.lt_trans hp (by decide))
    simp [encode, decode, decodeEvent, decodeWaitTimeout, hsel, hp]
  | mmioRead off w => simp [encode, decode, decodeEvent, decodeMmioRead]
  | mmioWrite off w v => simp [encode, decode, decodeEvent, decodeMmioWrite]
  | complete => simp [encode, decode, decodeEvent, plainEvent]
  | notify => simp [encode, decode, decodeEvent, plainEvent]
  | strayDone => simp [encode, decode, decodeEvent, plainEvent]
  | reset => simp [encode, decode, decodeEvent, plainEvent]

/-- Settles O2: a command word is the word of its command, and each event's decoder accepts one record. -/
theorem decodedEntryIsItsEncoding : Obligations.DecodedEntryIsItsEncoding := by
  intro e i h
  cases e with
  | command p w =>
    obtain ⟨hp, c, hw, rfl⟩ := decode_command.mp h
    exact ⟨by rw [encode_onPort, word_of_decodeCmd hw], (c.wellFormed_onPort p).trans (decide_eq_true hp)⟩
  | event r => exact decodeEvent_ok h
  | _ => cases h

/-- Settles O5: each word and each row is evaluated. -/
theorem tableWordsDecode : Obligations.TableWordsDecode := by
  unfold Obligations.TableWordsDecode
  decide

end Sys2Proof
end

section
/-! # What each step leaves alone

Two frames say what an instruction keeps of the setup (parameters, ports, host programs, feed) and of memory and the
streams; and one inversion says what a step is to the block. The obligations on the parameters (00_scope.md R6) and on the
ARG registers (10_state.md R20) are read off them. -/

namespace Sys2Proof.Machine

/-! ### The two frames -/

/-- `t` has the parameters, the number of ports, the host programs and the feed of `s`. -/
structure State.KeepsSetup (s t : State) : Prop where
  params : t.params = s.params
  portCount : t.ports.length = s.ports.length
  hosts : t.hosts = s.hosts
  feed : t.feed = s.feed

/-- `t` has the system memory and the two streams of `s`. -/
structure State.KeepsBytes (s t : State) : Prop where
  mem : t.mem = s.mem
  sink : t.sink = s.sink
  sourceTaken : t.sourceTaken = s.sourceTaken

theorem State.KeepsBytes.memByte {s t : State} (h : s.KeepsBytes t) (a : Nat) : t.memByte a = s.memByte a := by
  rw [State.memByte, h.mem, State.memByte]

theorem CmdWrites.keeps {s t : State} {p : Nat} {c : Cmd} (h : CmdWrites s p c t) :
    s.KeepsSetup t ∧ s.KeepsBytes t := by
  obtain ⟨_, _, _, _, _, _, _, _, _, f, rfl, -⟩ := h.frame
  exact ⟨⟨rfl, List.length_modify f s.ports p, rfl, rfl⟩, rfl, rfl, rfl⟩

theorem CompleteWrites.keeps {s t : State} (h : CompleteWrites s t) : s.KeepsSetup t ∧ s.KeepsBytes t := by
  obtain ⟨_, _, _, _, _, _, _, _, rfl⟩ := h.frame
  exact ⟨⟨rfl, rfl, rfl, rfl⟩, rfl, rfl, rfl⟩

theorem State.updPort_keeps (s : State) (p : Nat) (f : Port → Port) :
    s.KeepsSetup (s.updPort p f) ∧ s.KeepsBytes (s.updPort p f) :=
  ⟨⟨rfl, s.updPort_ports_length p f, rfl, rfl⟩, rfl, rfl, rfl⟩

theorem State.notify_keeps (s : State) : s.KeepsSetup s.notify ∧ s.KeepsBytes s.notify := by
  unfold State.notify
  split
  · exact ⟨⟨rfl, List.length_map _, rfl, rfl⟩, rfl, rfl, rfl⟩
  · exact ⟨⟨rfl, rfl, rfl, rfl⟩, rfl, rfl, rfl⟩

theorem State.beat_keepsSetup (k : Nat) (s : State) : s.KeepsSetup (s.beat k) := by
  obtain ⟨_, _, _, _, hmoved, -⟩ := s.moveBytes_frame k s.ch.next
  rw [State.beat, hmoved]
  exact ⟨rfl, rfl, rfl, rfl⟩

/-- Every instruction keeps the setup, and all but BEAT keep memory and the streams. -/
theorem exec_keeps {i : Instr} {s t : State} (h : exec i s = .next t) :
    s.KeepsSetup t ∧ ((∀ k, i ≠ .beat k) → s.KeepsBytes t) := by
  have both {u : State} (hu : s.KeepsSetup u ∧ s.KeepsBytes u) :
      s.KeepsSetup u ∧ ((∀ k, i ≠ .beat k) → s.KeepsBytes u) := ⟨hu.1, fun _ => hu.2⟩
  cases exec_effect h with
  | command _ p c q _ _ _ => exact both (runCmd_writes p c q s).keeps
  | illegal => exact both (s.updPort_keeps _ _)
  | beat k _ _ => exact ⟨s.beat_keepsSetup k, fun hne => absurd rfl (hne k)⟩
  | complete _ => exact both (complete_writes s).keeps
  | notify _ => exact both s.notify_keeps
  | waitTimeout => exact both (s.updPort_keeps _ _)
  | reset => exact both ⟨⟨rfl, List.length_map _, rfl, rfl⟩, rfl, rfl, rfl⟩
  | arg => exact both (s.updPort_keeps _ _)
  | _ => exact both ⟨⟨rfl, rfl, rfl, rfl⟩, rfl, rfl, rfl⟩

/-! ### The steps of the host masters -/

/-- The byte offset of register `sub` of a port slot (30_encoding.md R111). -/
theorem portOffset_toNat {p sub : Nat} (hp : p < Config.maxPorts) (hs : sub < 0x20) :
    (BitVec.ofNat 12 (portBase p + sub)).toNat = 0x100 + 0x20 * p + sub := by
  have hp : p < 120 := hp
  rw [BitVec.toNat_ofNat, portBase]
  omega

/-- A command word, legal or not, is the write of that word to CMD (45_host_interface.md R275). -/
theorem exec_mmioWrite_cmd {p : Nat} (hp : p < Config.maxPorts) (w : Word) (s : State) :
    exec (.mmioWrite (BitVec.ofNat 12 (portBase p + 0x10)) .w32 w) s = .next (s.issue p w) := by
  have ho := portOffset_toNat hp (sub := 0x10) (by decide)
  exact exec_mmioWrite_w32 (by omega) (regOf_port _ p 0x10 ho (by decide)) w s

/-- What a host master's store does (20_memory.md R87). -/
theorem hostStore_next {a : Word} {b : Byte} {s t : State} (h : hostStore a b s = .next t) :
    s.params.admits a.toNat = true ∧ ∃ l, t = { s with mem := Memory.write s.mem a.toNat b, raced := l }
      ∧ (l = s.raced ∨ l = insertAddr s.raced a.toNat) := by
  unfold hostStore at h
  split_ifs at h with ha hrace <;> cases h
  · exact ⟨ha, _, rfl, .inr rfl⟩
  · exact ⟨ha, _, rfl, .inl rfl⟩

/-- A host master's load changes the value returned and the draw counter alone (20_memory.md R87). -/
theorem hostLoad_next {a : Word} {s t : State} (h : hostLoad a s = .next t) :
    ∃ x d, t = { s with busData := x, draws := d } := by
  unfold hostLoad at h
  split_ifs at h <;> cases h <;> exact ⟨_, _, rfl⟩

/-- Where the instruction that a step of `s` runs comes from: an item of the feed, an operation of a host program, or an
illegal command word, which is its write to CMD. -/
inductive InstrSource (s : State) (i : Instr) : Prop where
  | item (e : Entry) (he : e ∈ s.feed) (hd : decode e = .ok i)
  | hostOp (l : List HostOp) (op : HostOp) (hl : l ∈ s.hosts) (ho : op ∈ l) (hi : i = op.instr)
  | illegalWord (off : BitVec 12) (w : Word) (hi : i = .mmioWrite off .w32 w) (hn : i.issues = none)

/-- `hs` is `s.hosts`, or what is left of it when one program drops its first operation. -/
def State.HostsLeft (s : State) (hs : List (List HostOp)) : Prop :=
  hs = s.hosts ∨ ∃ (m : Nat) (op : HostOp) (ops : List HostOp), s.hosts[m]? = some (op :: ops) ∧ hs = s.hosts.set m ops

/-- What the step of `s` that answers `t` is to the block: an instruction, on the state with its item taken off and its
program moved on, or an access of a host to memory, or nothing. -/
inductive BlockStep (s t : State) : Prop where
  | instr (i : Instr) (f : List Entry) (hs : List (List HostOp)) (hsrc : InstrSource s i) (hf : ∀ e ∈ f, e ∈ s.feed)
      (hh : s.HostsLeft hs) (h : exec i { s with feed := f, hosts := hs } = .next t)
  | store (a : Nat) (b : Byte) (l : List Nat) (f : List Entry) (ha : a ≤ maxAddr) (hl : l = s.raced ∨ l = insertAddr s.raced a)
      (hf : ∀ e ∈ f, e ∈ s.feed) (ht : t = { s with mem := Memory.write s.mem a b, raced := l, feed := f })
  | quiet (x : Word) (d : Nat) (f : List Entry) (hf : ∀ e ∈ f, e ∈ s.feed)
      (ht : t = { s with busData := x, draws := d, feed := f })

theorem step_blockStep {s t : State} (h : step s = .next t) : BlockStep s t := by
  have tail {e : Entry} {rest : List Entry} (hf : s.feed = e :: rest) : ∀ x ∈ rest, x ∈ s.feed := by
    intro x hx
    rw [hf]
    exact List.mem_cons_of_mem _ hx
  cases step_effect h with
  | idle hf => exact .quiet s.busData s.draws s.feed (fun _ => id) rfl
  | passed m rest hf _ => exact .quiet s.busData s.draws rest (tail hf) rfl
  | instr e rest i _ hf hd h => exact .instr i rest s.hosts (.item e (by simp [hf]) hd) (tail hf) (.inl rfl) h
  | hostOp m rest op ops _ hf hh h =>
    have hmem : op :: ops ∈ s.hosts := List.mem_of_getElem? hh
    refine .instr op.instr rest _ (.hostOp _ op hmem (by simp) rfl) (tail hf) ?_ h
    split
    · exact .inl rfl
    · exact .inr ⟨m, op, ops, hh, rfl⟩
  | illegal p w rest hf hp hd =>
    obtain ⟨e, hd⟩ := hd
    have ho := portOffset_toNat hp (sub := 0x10) (by decide)
    have hn : (Instr.mmioWrite (BitVec.ofNat 12 (portBase p + 0x10)) .w32 w).issues = none := by
      simp [Instr.issues, regOf_port _ p 0x10 ho (by decide), hd]
    exact .instr _ rest s.hosts (.illegalWord _ w rfl hn) (tail hf) (.inl rfl) (exec_mmioWrite_cmd hp w _)
  | hostStore a b rest _ hf h =>
    obtain ⟨ha, l, ht, hl⟩ := hostStore_next h
    exact .store a.toNat b l rest (Params.le_of_admits _ ha) hl (tail hf) ht
  | hostLoad a rest _ hf h =>
    obtain ⟨x, d, ht⟩ := hostLoad_next h
    exact .quiet x d rest (tail hf) ht

/-- Settles O39: neither an instruction nor a host's access to memory writes them. -/
theorem parametersNeverChange : Obligations.ParametersNeverChange := by
  intro s t h
  cases step_blockStep h with
  | instr i f hs _ _ _ h =>
    have hkeep := (exec_keeps h).1
    exact ⟨hkeep.params, hkeep.portCount⟩
  | store a b l f _ _ _ ht => exact ht ▸ ⟨rfl, rfl⟩
  | quiet x d f _ ht => exact ht ▸ ⟨rfl, rfl⟩

/-! ### The ARG registers -/

/-- `r` has the ARG registers of `q`. -/
def Port.KeepsArgs (q r : Port) : Prop := r.arg0 = q.arg0 ∧ r.arg1 = q.arg1 ∧ r.arg2 = q.arg2 ∧ r.arg3 = q.arg3

@[simp] theorem Port.arg_setArg (k : Fin 4) (v : Word) (q : Port) : (q.setArg k v).arg k = v := by
  fin_cases k <;> rfl

theorem CmdWrites.keepsArgs {s t : State} {p : Nat} {c : Cmd} (h : CmdWrites s p c t) {q r : Port}
    (hq : s.ports[p]? = some q) (hr : t.ports[p]? = some r) : q.KeepsArgs r := by
  obtain ⟨_, _, _, _, _, _, _, _, _, f, rfl, hf⟩ := h.frame
  obtain rfl : f q = r := by simpa [hq] using hr
  exact hf q

/-- A command, legal or not, keeps the ARG registers of its port. -/
theorem exec_cmdPort_keepsArgs {i : Instr} {s t : State} {p : Nat} {q r : Port} (h : exec i s = .next t)
    (hi : i.cmdPort = some p) (hq : s.ports[p]? = some q) (hr : t.ports[p]? = some r) : q.KeepsArgs r := by
  cases exec_effect h with
  | pass =>
    cases hq.symm.trans hr
    exact ⟨rfl, rfl, rfl, rfl⟩
  | command _ p' c q' _ hp _ =>
    cases hp.symm.trans hi
    exact (runCmd_writes p c q' s).keepsArgs hq hr
  | illegal _ p' _ _ hp _ =>
    cases hp.symm.trans hi
    cases (State.finish_port hq rfl .illegalCommand 0#32).symm.trans hr
    exact ⟨rfl, rfl, rfl, rfl⟩
  | irqStatus _ _ hreg => simp [Instr.cmdPort, hreg] at hi
  | irqEnable _ _ hreg => simp [Instr.cmdPort, hreg] at hi
  | arg _ _ _ _ hreg => simp [Instr.cmdPort, hreg] at hi
  | _ => cases hi

theorem Port.release_keepsArgs (g : Word) (q : Port) : q.KeepsArgs (q.release g) := by
  unfold Port.release
  split <;> exact ⟨rfl, rfl, rfl, rfl⟩

/-- Settles O45: a command and the end of a wait keep the ARG registers of their port. -/
theorem argumentsAreWrittenByTheHost : Obligations.ArgumentsAreWrittenByTheHost := by
  intro i s t p q r h hq hr hne
  have keeps (hk : q.KeepsArgs r) : False := by
    obtain ⟨h0, h1, h2, h3⟩ := hk
    exact hne (by rw [h0, h1, h2, h3])
  cases exec_portEffect h p with
  | kept ht =>
    cases (ht.trans hq).symm.trans hr
    exact absurd rfl hne
  | command hi => exact (keeps (exec_cmdPort_keepsArgs h hi hq hr)).elim
  | arg off v k hi hreg ht =>
    obtain rfl : q.setArg k v = r := by simpa [hq, hr, eq_comm] using ht
    exact .inr ⟨off, v, k, hi, hreg, q.arg_setArg k v⟩
  | release _ ht =>
    obtain rfl : q.release (s.gen + 1#32) = r := by simpa [hq, hr, eq_comm] using ht
    exact (keeps (q.release_keepsArgs _)).elim
  | timeout q' _ hq' _ ht =>
    cases hq.symm.trans hq'
    cases ht.symm.trans hr
    exact absurd rfl hne
  | reset hi _ => exact .inl hi

end Sys2Proof.Machine
end

section
/-! # The frames of commands, events and beats

The obligations on what a command, an event and a beat leave alone, and on the writers of the channel (10_state.md R26),
each read off what its instruction writes. -/

namespace Sys2Proof.Machine

/-! ### Commands -/

/-- A command that is dropped writes nothing. -/
theorem CmdWrites.refl (s : State) (p : Nat) (c : Cmd) : CmdWrites s p c s := by
  have hmodify : s.ports.modify p id = s.ports := List.modify_id p s.ports
  refine ⟨⟨s.session, s.engine, s.mode, s.win, s.ch, s.pendAddr, s.pendValid, s.raced, s.draws, id, by rw [hmodify],
    fun r => ⟨rfl, rfl, rfl, rfl⟩⟩, by simp, by simp, by simp, by simp, fun _ => ⟨rfl, rfl, rfl, fun _ => ⟨rfl, rfl⟩⟩,
    by simp, fun _ => .inl rfl, by simp, fun h h' => ?_, fun h h' => ?_⟩
  all_goals simp [h] at h'

theorem exec_onPort_writes {p : Nat} {c : Cmd} {s t : State} (h : exec (c.onPort p) s = .next t) :
    CmdWrites s p c t := by
  cases (exec_onPort p c s).symm.trans h
  obtain hdrop | ⟨q, -, -, hrun⟩ := s.onPort_cases p (runCmd p c)
  · rw [hdrop]
    exact .refl s p c
  · rw [hrun]
    exact runCmd_writes p c q s

/-- What a command leaves alone that is no business of any command. -/
theorem CmdWrites.frameFields {s t : State} {p : Nat} {c : Cmd} (h : CmdWrites s p c t) :
    t.busData = s.busData ∧ t.periodCount = s.periodCount ∧ t.gen = s.gen ∧ t.notifyPending = s.notifyPending
    ∧ t.irqStatus = s.irqStatus ∧ t.irqEnable = s.irqEnable ∧ t.faultZl = s.faultZl := by
  obtain ⟨_, _, _, _, _, _, _, _, _, _, rfl, -⟩ := h.frame
  exact ⟨rfl, rfl, rfl, rfl, rfl, rfl, rfl⟩

/-- A command that neither opens, nor closes, nor starts, nor requests an address keeps the session, the mode, the window
and the latch. -/
theorem CmdWrites.keepsSession {s t : State} {p : Nat} {c : Cmd} (h : CmdWrites s p c t)
    (hc : c = .getoff ∨ c = .waitgen ∨ c = .stop) :
    t.win = s.win ∧ t.session = s.session ∧ t.mode = s.mode ∧ t.pendAddr = s.pendAddr ∧ t.pendValid = s.pendValid := by
  have hopen : ∀ m, c ≠ .openSession m := by rintro m rfl; simp at hc
  have hclose : c ≠ .close := by rintro rfl; simp at hc
  have hstart : c ≠ .start := by rintro rfl; simp at hc
  have hreq : c ≠ .reqaddr := by rintro rfl; simp at hc
  refine ⟨not_not.mp fun hne => ?_, not_not.mp fun hne => ?_, not_not.mp fun hne => ?_,
    not_not.mp fun hne => hreq (h.pendAddr hne), ?_⟩
  · obtain ⟨m, hm⟩ | hm := h.win hne
    · exact hopen m hm
    · exact hstart hm
  · obtain ⟨m, hm⟩ | hm := h.session hne
    · exact hopen m hm
    · exact hclose hm
  · obtain ⟨m, hm⟩ := h.mode hne
    exact hopen m hm
  · cases hs : s.pendValid <;> cases ht : t.pendValid
    · rfl
    · exact absurd (h.latch hs ht) hreq
    · obtain ⟨m, hm⟩ | hm | hm := h.unlatch hs ht
      · exact absurd hm (hopen m)
      · exact absurd hm hclose
      · exact absurd hm hstart
    · rfl

/-- A command that neither starts nor stops keeps the engine and the channel. -/
theorem CmdWrites.keepsEngine {s t : State} {p : Nat} {c : Cmd} (h : CmdWrites s p c t) (hstart : c ≠ .start)
    (hstop : c ≠ .stop) : t.ch = s.ch ∧ t.engine = s.engine := by
  refine ⟨not_not.mp fun hne => ?_, not_not.mp fun hne => ?_⟩
  · exact (h.ch hne).elim hstart hstop
  · exact (h.engine hne).elim (fun hc => hstart hc.1) fun hc => hstop hc.1

/-- Settles O48: a command, dropped or not, writes what `CmdWrites` lists. -/
theorem commandFrame : Obligations.CommandFrame := by
  intro p c s t h
  have hw : CmdWrites s p c t := exec_onPort_writes h
  obtain ⟨hsetup, hbytes⟩ := hw.keeps
  obtain ⟨hbus, hperiods, hgen, hnotify, hstatus, henable, hfault⟩ := hw.frameFields
  refine ⟨hbytes.memByte, hbytes.mem, hbytes.sink, hbytes.sourceTaken, hbus, hsetup.feed, hsetup.hosts, hsetup.params,
    hperiods, hgen, hnotify, hstatus, henable, hfault, fun j hj => hw.otherPort hj.symm,
    fun q r hq hr => hw.keepsArgs hq hr, fun hc => ?_, fun hc => hw.keepsSession (.inr (.inr hc))⟩
  obtain ⟨hwin, hsession, hmode, haddr, hvalid⟩ := hw.keepsSession (hc.imp_right .inl)
  obtain ⟨hch, hengine⟩ := hw.keepsEngine (by rintro rfl; simp at hc) (by rintro rfl; simp at hc)
  exact ⟨hwin, hch, hsession, hengine, hmode, haddr, hvalid⟩

/-! ### Events -/

theorem complete_next {s t : State} (h : exec .complete s = .next t) : t = s ∨ t = s.complete := by
  cases h
  split
  · exact .inr rfl
  · exact .inl rfl

theorem notify_next {s t : State} (h : exec .notify s = .next t) : t = s ∨ t = s.notify := by
  cases h
  split
  · exact .inr rfl
  · exact .inl rfl

@[simp] theorem State.notify_ch (s : State) : s.notify.ch = s.ch := by
  unfold State.notify
  split <;> rfl

theorem mmioRead_next {off : BitVec 12} {w : AccessWidth} {s t : State} (h : exec (.mmioRead off w) s = .next t) :
    ∃ x, t = { s with busData := x } := by
  simp only [exec, execMmioRead, raiseBusError] at h
  split at h <;> cases h
  exact ⟨_, rfl⟩

/-- Settles O49: of the events, BEAT alone moves bytes, and each of the others writes its own elements. -/
theorem eventFrame : Obligations.EventFrame := by
  intro i s t h hbeat
  obtain ⟨hsetup, hbytes⟩ := exec_keeps h
  have hbytes := hbytes hbeat
  refine ⟨hbytes.memByte, hbytes.mem, hbytes.sink, hbytes.sourceTaken, hsetup.feed, hsetup.hosts, hsetup.params, ?_, ?_, ?_,
    ?_, ?_⟩
  · rintro rfl
    obtain rfl | rfl := complete_next h
    · exact ⟨rfl, rfl, rfl, rfl, rfl, rfl, rfl⟩
    · have hw := complete_writes s
      exact ⟨hw.ports, hw.keepsCounters.periodCount, hw.keepsCounters.gen, hw.session, hw.mode, hw.pendAddr,
        hw.irqEnable⟩
  · rintro rfl
    obtain rfl | rfl := notify_next h
    · exact ⟨rfl, rfl, rfl, rfl, rfl, rfl, rfl, rfl, rfl⟩
    · have hk := s.notify_keepsControl
      exact ⟨hk.win, s.notify_ch, hk.session, hk.engine, hk.mode, hk.pendAddr, hk.pendValid, s.notify_irqEnable, hk.faultZl⟩
  · rintro ⟨off, w, rfl⟩
    exact mmioRead_next h
  · rintro ⟨p, rfl⟩
    cases h
    split <;> exact ⟨_, rfl⟩
  · rintro rfl
    cases h
    split <;> exact ⟨_, rfl⟩

/-! ### Beats -/

theorem beat_next {k : Nat} {s t : State} (h : exec (.beat k) s = .next t) :
    t = s ∨ (s.beatEnabled k = true ∧ s.params.firstAbsent k s.ch.next = none ∧ t = s.beat k) := by
  simp only [exec, execBeat] at h
  split at h
  next he =>
    split at h <;> cases h
    exact .inr ⟨he, ‹_›, rfl⟩
  next => exact .inl (Host.Outcome.next.inj h).symm

/-- The channel counts and raises its signal; where it reads and writes stays (41_engine.md R170). -/
theorem Channel.afterBeat_keeps (c : Channel) (k : Nat) :
    (c.afterBeat k).src = c.src ∧ (c.afterBeat k).dst = c.dst ∧ (c.afterBeat k).len = c.len
    ∧ (c.afterBeat k).rem.toNat ≤ c.rem.toNat := by
  unfold Channel.afterBeat
  split
  · exact ⟨rfl, rfl, rfl, Nat.zero_le _⟩
  · refine ⟨rfl, rfl, rfl, ?_⟩
    have hlt := c.rem.isLt
    rw [word, BitVec.toNat_ofNat, Nat.mod_eq_of_lt (by omega)]
    omega

theorem Memory.SourceStored.memByte {s t : State} {a n i : Nat} (h : Memory.SourceStored s.mem t.mem a n i) {x : Nat}
    (hx : x < a ∨ a + n ≤ x) : t.memByte x = s.memByte x := by
  rw [State.memByte, h.other x hx, State.memByte]

/-- Settles O50: to the sink a beat appends at CH_DST and stores nothing, and from the source it stores at its own
addresses. -/
theorem beatFrame : Obligations.BeatFrame := by
  intro k s t h a0
  obtain rfl | ⟨-, -, rfl⟩ := beat_next h
  · exact ⟨⟨t.mem, [], t.sourceTaken, t.draws, t.ch, by simp, by simp, fun _ => rfl, rfl, rfl, rfl⟩, fun _ _ => rfl,
      fun _ _ => rfl⟩
  obtain ⟨hsrc, hdst, hlen, -⟩ := s.ch.afterBeat_keeps k
  have hbeat : s.beat k = (s.moveBytes k a0).setCh (s.ch.afterBeat k) := rfl
  cases hdir : s.params.direction with
  | memToSink =>
    obtain ⟨out, d, hout, hmove⟩ := State.moveBytes_toSink k a0 hdir
    rw [hbeat, hmove]
    exact ⟨⟨_, out, _, d, _, rfl, hout.dst, nofun, hsrc, hdst, hlen⟩, fun _ _ => rfl,
      fun _ _ => rfl⟩
  | sourceToMem =>
    obtain ⟨m, hstored, hmove⟩ := State.moveBytes_fromSource k a0 hdir
    rw [hbeat, hmove]
    exact ⟨⟨m, [], _, _, _, by simp only [List.append_nil]; rfl, by simp, fun _ => rfl, hsrc, hdst, hlen⟩, nofun,
      fun x hx => Memory.SourceStored.memByte (s := s) hstored hx⟩

/-! ### The writers of the channel -/

/-- What an instruction that answers `t` has done to the channel: nothing, or it is one of its writers. -/
inductive ChannelEffect (s t : State) (i : Instr) : Prop where
  | kept (ht : t.ch = s.ch)
  | beat (k : Nat) (hi : i = .beat k) (he : s.beatEnabled k = true) (ht : t.ch = s.ch.afterBeat k)
  | complete (hi : i = .complete) (he : s.completeEnabled = true) (ht : t = s.complete)
  | strayDone (hi : i = .strayDone) (he : s.engine = .idle) (ht : t.ch = { s.ch with done := true })
  | reset (hi : i = .reset) (ht : t = s.blockReset)
  | command (p : Nat) (c : Cmd) (hi : i.issues = some (p, c)) (hw : CmdWrites s p c t)

theorem exec_channelEffect {i : Instr} {s t : State} (h : exec i s = .next t) : ChannelEffect s t i := by
  cases exec_effect h with
  | command _ p c q hi _ _ => exact .command p c hi (runCmd_writes p c q s)
  | beat k he _ => exact .beat k rfl he rfl
  | complete he => exact .complete rfl he rfl
  | notify _ => exact .kept s.notify_ch
  | strayDone he => exact .strayDone rfl he rfl
  | reset => exact .reset rfl rfl
  | _ => exact .kept rfl

/-- Settles O42: the writers by `ChannelEffect`; a beat counts down, STOP aborts or leaves, STRAY_DONE raises the signal. -/
theorem writersOfTheChannel : Obligations.WritersOfTheChannel := by
  intro i s t h
  cases exec_channelEffect h with
  | kept ht => simp [ht]
  | beat k hi _ ht =>
    subst hi
    refine ⟨fun _ => .inr (.inr (.inr (.inl ⟨k, rfl⟩))), fun k' hk => ?_, ?_, ?_⟩
    · rw [ht]
      exact s.ch.afterBeat_keeps k
    · rintro p ⟨⟩
    · rintro ⟨⟩
  | complete hi _ _ =>
    subst hi
    exact ⟨fun _ => .inr (.inl rfl), by rintro k ⟨⟩, by rintro p ⟨⟩, by rintro ⟨⟩⟩
  | strayDone hi _ ht =>
    subst hi
    exact ⟨fun _ => .inr (.inr (.inl rfl)), by rintro k ⟨⟩, by rintro p ⟨⟩, fun _ => .inr ht⟩
  | reset hi _ =>
    subst hi
    exact ⟨fun _ => .inl rfl, by rintro k ⟨⟩, by rintro p ⟨⟩, by rintro ⟨⟩⟩
  | command p c hi hw =>
    refine ⟨fun hne => ?_, ?_, fun p' hp => ?_, ?_⟩
    · obtain rfl | rfl := hw.ch hne
      · exact .inr (.inr (.inr (.inr ⟨p, .inl hi⟩)))
      · exact .inr (.inr (.inr (.inr ⟨p, .inr hi⟩)))
    · rintro k rfl
      cases hi
    · cases hi.symm.trans hp
      obtain hkept | habort := hw.stop rfl
      · simp [hkept]
      · simp [habort]
    · rintro rfl
      cases hi

end Sys2Proof.Machine
end

section
/-! # The step, RESET and the events that pass

What a step does with each kind of item (log entry 1), what RESET and the reset state are (70_reset_and_hazards.md R340,
R341), and the turns that pass (log entry 3). -/

namespace Sys2Proof.Machine

/-! ### One step, by the item of the feed -/

/-- Settles O6: the item decodes, so the step is its instruction's. -/
theorem stepRunsTheDecodedInstruction : Obligations.StepRunsTheDecodedInstruction := by
  intro s e rest i hf hd
  simp only [step, fetch, hf, hd]

/-- A host's turn is the first operation of its program. -/
theorem step_hostTurn {s : State} {m : Nat} {op : HostOp} {ops : List HostOp} {rest : List Entry}
    (hf : s.feed = .hostTurn m :: rest) (hh : s.hosts[m]? = some (op :: ops)) :
    step s = exec op.instr { s with feed := rest, hosts := if op.again s then s.hosts else s.hosts.set m ops } := by
  simp only [step, fetch, hf, decode, noInstr, hostTurn, hh, State.afterHostOp, HostOp.again_feed]

/-- The turn of a host with nothing left to do passes. -/
theorem step_hostTurn_passed {s : State} {m : Nat} {rest : List Entry} (hf : s.feed = .hostTurn m :: rest)
    (hh : s.hosts[m]? = none ∨ s.hosts[m]? = some []) : step s = .next { s with feed := rest } := by
  obtain hh | hh := hh <;> simp only [step, fetch, hf, decode, noInstr, hostTurn, hh]

theorem HostOp.again_eq_false {s : State} {op : HostOp} (h : ∀ p, op ≠ .waitdone p) : op.again s = false := by
  cases op with
  | read off => rfl
  | write off v => rfl
  | waitdone p => exact absurd rfl (h p)

/-- Settles O7: `step` at each kind of item. -/
theorem stepWithoutAnInstruction : Obligations.StepWithoutAnInstruction := by
  refine ⟨fun s hf => ?_, fun s p w e rest hf hp hd => ?_, fun s p w rest hf hp => ?_, fun s a b rest hf => ?_,
    fun s a rest hf => ?_, fun s m rest hf hh => step_hostTurn_passed hf hh,
    fun s m op ops rest hf hh => ⟨fun hop => ?_, fun p q hop hp hq => ?_⟩, fun s r e rest hf hd => ?_⟩
  · simp only [step, fetch, hf]
  · have hp : p < Config.maxPorts := hp
    simp only [step, fetch, hf, decode, hp, if_true, hd, noInstr]
  · have hp : ¬ p < Config.maxPorts := hp.not_gt
    simp only [step, fetch, hf, decode, hp, if_false, noInstr]
  · simp only [step, fetch, hf, decode, noInstr]
  · simp only [step, fetch, hf, decode, noInstr]
  · rw [step_hostTurn hf hh, HostOp.again_eq_false hop]
    rfl
  · subst hop
    rw [step_hostTurn hf hh, HostOp.again_waitdone hp hq]
  · simp only [step, fetch, hf, decode, hd, noInstr]

/-! ### RESET -/

/-- Settles O21: `blockReset` is that state, with no raced byte. -/
theorem resetRestoresEveryElement : Obligations.ResetRestoresEveryElement :=
  fun _ => ⟨[], rfl⟩

/-- ID and CAPS of the reference machine as a host reads them after reset (10_state.md R36, R37). -/
theorem exec_mmioRead_id_caps_reset :
    exec (.mmioRead 0x000#12 .w32) State.reset = .next { State.reset with busData := 0x43444D41#32 }
    ∧ exec (.mmioRead 0x004#12 .w32) State.reset = .next { State.reset with busData := 0x01200401#32 } := by
  have hcaps : State.reset.capsWord = 0x01200401#32 := by decide
  exact ⟨exec_mmioRead_w32 (by decide) rfl _, (exec_mmioRead_w32 (by decide) rfl _).trans (by rw [← hcaps]; rfl)⟩

/-- Settles O22: every element is evaluated. -/
theorem resetStateIsQuiet : Obligations.ResetStateIsQuiet := by
  obtain ⟨hid, hcaps⟩ := exec_mmioRead_id_caps_reset
  refine ⟨rfl, rfl, rfl, rfl, rfl, rfl, rfl, rfl, rfl, rfl, rfl, rfl, rfl, ?_, ?_, ?_, ?_, hid, hcaps⟩
  all_goals decide

/-- Settles O37: the session is closed, the engine Idle and nothing waits. -/
theorem invariantHoldsAtReset : Obligations.InvariantHoldsAtReset where
  session _ := ⟨rfl, rfl⟩
  window hopen := nomatch hopen
  position hopen := nomatch hopen
  chunk hrun := nomatch hrun
  armed hrun := nomatch hrun
  channel := ⟨Nat.le_refl _, fun hactive => nomatch hactive⟩
  waits := by decide
  noFault := ⟨rfl, rfl⟩
  form := ⟨rfl, rfl, by decide, by decide⟩

/-! ### Events -/

/-- Settles O20: it is enabled while the engine is Idle. -/
theorem strayDoneRaisesTheSignal : Obligations.StrayDoneRaisesTheSignal := by
  intro s h
  simp [exec, execStrayDone, State.strayDoneEnabled, h, State.setCh]

theorem State.waitTimeoutEnabled_iff (s : State) (p : Nat) :
    s.waitTimeoutEnabled p = true ↔ ∃ q, s.ports[p]? = some q ∧ q.busy = true := by
  unfold State.waitTimeoutEnabled
  cases s.ports[p]? <;> simp

theorem exec_beat_disabled {k : Nat} {s : State} (h : s.beatEnabled k = false) : exec (.beat k) s = .next s := by
  simp [exec, execBeat, h]

theorem exec_complete_disabled {s : State} (h : s.completeEnabled = false) : exec .complete s = .next s := by
  simp [exec, execComplete, h]

theorem exec_notify_disabled {s : State} (h : s.notifyPending = .none) : exec .notify s = .next s := by
  simp [exec, execNotify, State.notifyEnabled, h]

theorem exec_waitTimeout_disabled {p : Nat} {s : State} (h : s.waitTimeoutEnabled p = false) :
    exec (.waitTimeout p) s = .next s := by
  simp [exec, execWaitTimeout, h]

theorem exec_waitTimeout_enabled {p : Nat} {s : State} (h : s.waitTimeoutEnabled p = true) :
    exec (.waitTimeout p) s = .next (s.finish p .ok 0#32) := by
  simp [exec, execWaitTimeout, h]

/-- Settles O23: each clause is a condition under which its event is not enabled. -/
theorem disabledEventPassesItsTurn : Obligations.DisabledEventPassesItsTurn := by
  intro s
  refine ⟨fun k hk => exec_beat_disabled ?_, fun hd => exec_complete_disabled ?_, exec_notify_disabled, fun hrun => ?_,
    fun p hp => exec_waitTimeout_disabled ?_⟩
  · obtain hoff | rfl | hlt := hk
    · simp [State.beatEnabled, hoff]
    · simp [State.beatEnabled]
    · simp [State.beatEnabled, hlt.not_ge]
  · obtain hdone | hpend := hd
    · simp [State.completeEnabled, hdone]
    · simp [State.completeEnabled, hpend]
  · simp [exec, execStrayDone, State.strayDoneEnabled, hrun]
  · rw [Bool.eq_false_iff, ne_eq, s.waitTimeoutEnabled_iff]
    rintro ⟨q, hq, hb⟩
    simp [hp q hq] at hb

/-! ### Ports, the fault and the comparison -/

/-- Settles O35: `finish` sets one port, and the fault's bit is an OR. -/
theorem portFinishAndFault : Obligations.PortFinishAndFault := by
  refine ⟨fun s p c r q hq => State.updPort_eq_set hq _, fun s => ⟨_, rfl, ?_, ?_⟩⟩
  · simp
  · simp

theorem reached_iff (g t : Word) : reached g t = true ↔ (g.toNat + (2 ^ 32 - t.toNat)) % 2 ^ 32 < 2 ^ 31 := by
  rw [reached, decide_eq_true_iff, BitVec.toNat_sub, Nat.add_comm]

/-- Settles O34: each clause is arithmetic on the difference modulo 2^32. -/
theorem reachedComparesSerially : Obligations.ReachedComparesSerially := by
  refine ⟨reached_iff, fun g t h1 h2 h3 => ?_, fun g => ⟨?_, ?_⟩, by decide, by decide, by decide⟩
  · rw [reached_iff]
    omega
  · rw [← Bool.not_eq_true, reached_iff, BitVec.toNat_add]
    have hlt := g.isLt
    simp only [BitVec.toNat_ofNat]
    omega
  · rw [reached_iff, BitVec.toNat_add]
    have hlt := g.isLt
    simp only [BitVec.toNat_ofNat]
    omega

/-! ### Absent memory -/

/-- The first absent address of a range is where the range stops naming memory. -/
theorem Params.firstAbsent_eq_some (c : Params) {k j a : Nat} (hj : j < k) (hm : c.AdmitsRange a j)
    (ha : c.admits (a + j) = false) : c.firstAbsent k a = some (a + j) := by
  induction k generalizing j a with
  | zero => omega
  | succ k ih =>
    cases j with
    | zero =>
      have ha : c.admits a = false := ha
      simp [Params.firstAbsent, ha]
    | succ j =>
      have hfirst : c.admits a = true := hm 0 (by omega)
      have haddr : a + (j + 1) = a + 1 + j := by omega
      rw [Params.firstAbsent, if_pos hfirst, haddr]
      refine ih (by omega) (fun x hx => ?_) (haddr ▸ ha)
      have hnext := hm (x + 1) (by omega)
      rwa [← Nat.add_assoc, Nat.add_right_comm] at hnext

/-- Settles O58: the beat stops at the first absent address, and a host's access at its own. -/
theorem absentMemoryIsStuck : Obligations.AbsentMemoryIsStuck := by
  refine fun s => ⟨fun k j hactive hk hrem hj hm ha => ?_, fun a b ha => ⟨?_, ?_⟩⟩
  · have hen : s.beatEnabled k = true := by simp [State.beatEnabled, hactive, hk, hrem]
    simp [exec, execBeat, hen, s.params.firstAbsent_eq_some hj hm ha]
  · simp [hostStore, ha]
  · simp [hostLoad, ha]

end Sys2Proof.Machine
end

section
/-! # Every step keeps the invariant

One lemma per way that the block's elements move (10_state.md R52 to R58; 40_tracker.md R132): a port, an idle engine's
channel, a newly armed chunk, a beat, a notification. Each instruction is one of these ways. -/

namespace Sys2Proof.Machine

/-! ### Ports -/

/-- A change of one port that leaves no reached target waiting (10_state.md R58). -/
theorem State.Inv.updPort {s : State} (h : s.Inv) {p : Nat} {f : Port → Port}
    (hf : ∀ q, s.ports[p]? = some q → (f q).busy = true → reached s.gen (f q).waitTarget = false) :
    (s.updPort p f).Inv where
  session := h.session
  window := h.window
  position := h.position
  chunk := h.chunk
  armed := h.armed
  channel := h.channel
  waits q hq hb := by
    obtain ⟨j, hj⟩ := List.mem_iff_getElem?.mp hq
    rw [s.updPort_getElem?] at hj
    split at hj
    next hp =>
      subst hp
      obtain ⟨q', hq', rfl⟩ := Option.map_eq_some_iff.mp hj
      exact hf q' hq' hb
    next => exact h.waits q (List.mem_of_getElem? hj) hb
  noFault := h.noFault
  form := by
    obtain ⟨hmem, hraced, hmin, hmax⟩ := h.form
    exact ⟨hmem, hraced, by rwa [s.updPort_ports_length], by rwa [s.updPort_ports_length]⟩

/-- A port that has ended its command waits for nothing. -/
theorem State.Inv.finish {s : State} (h : s.Inv) (p : Nat) (c : Code) (r : Word) : (s.finish p c r).Inv :=
  h.updPort fun _ _ hb => nomatch hb

/-- The invariant does not look at the schedule. -/
theorem State.Inv.schedule {s : State} (h : s.Inv) (f : List Entry) (hs : List (List HostOp)) :
    State.Inv { s with feed := f, hosts := hs } :=
  ⟨h.session, h.window, h.position, h.chunk, h.armed, h.channel, h.waits, h.noFault, h.form⟩

/-! ### The window and the channel -/

theorem Window.Good.chunk_le_fin {w : Window} (h : w.Good) (hc : w.Chunked) :
    w.pos.toNat + w.chunk.toNat ≤ w.fin.toNat := by
  have hlt := h.posLt
  unfold Window.Chunked at hc
  omega

/-- The channel that `arm` leaves of a nonempty chunk (41_engine.md R150). -/
def Channel.armed (w : Window) : Channel :=
  { active := true, src := w.pos, dst := w.sink, len := w.chunk, rem := w.chunk, done := false }

/-- A running engine with a newly armed chunk of a good window (10_state.md R55, R56). -/
theorem State.Inv.arm {s : State} (h : s.Inv) (ho : s.session = .opened) {w : Window} (hg : w.Good) (hc : w.Chunked)
    (hlen : w.len = s.win.len) (hperiod : w.period = s.win.period) (e : EngineState) (n : NotifyKind) :
    State.Inv { s with
      win := w, pendValid := false, ch := Channel.armed w, engine := e, raced := [], notifyPending := n } where
  session hclosed := by simp [ho] at hclosed
  window _ := by
    obtain ⟨-, -, -, -, hframe, -⟩ := h.window ho
    exact ⟨hg.periodPos, hg.periodLe, hg.finEq, hg.finLe, fun hm => (hperiod.trans (hframe hm)).trans hlen.symm, nofun⟩
  position _ := ⟨hg.posGe, hg.posLt, hg.aligned⟩
  chunk _ := hc
  armed _ := by
    have hne : w.chunk.toNat ≠ 0 := fun h0 => hg.chunk_ne_zero hc (BitVec.eq_of_toNat_eq h0)
    exact ⟨rfl, rfl, rfl, .inl ⟨rfl, rfl, Nat.one_le_iff_ne_zero.mpr hne, Nat.le_refl _⟩⟩
  channel := by
    have hne : w.chunk.toNat ≠ 0 := fun h0 => hg.chunk_ne_zero hc (BitVec.eq_of_toNat_eq h0)
    have hend : w.pos.toNat + w.chunk.toNat ≤ maxAddr :=
      (hg.chunk_le_fin hc).trans (hg.finEq.le.trans hg.finLe)
    exact ⟨Nat.le_refl _, fun _ => ⟨Nat.one_le_iff_ne_zero.mpr hne, hend⟩⟩
  waits := h.waits
  noFault := h.noFault
  form := by
    obtain ⟨hmem, -, hmin, hmax⟩ := h.form
    exact ⟨hmem, rfl, hmin, hmax⟩

/-- A channel within its bounds, under an Idle engine (10_state.md R57). -/
theorem State.Inv.idleChannel {s : State} (h : s.Inv) {c : Channel} (hrem : c.rem.toNat ≤ c.len.toNat)
    (hactive : c.active = true → 1 ≤ c.rem.toNat ∧ c.src.toNat + c.len.toNat ≤ maxAddr) (d : Nat) :
    State.Inv { s with engine := .idle, ch := c, draws := d } where
  session hclosed := ⟨rfl, (h.session hclosed).2⟩
  window := h.window
  position := h.position
  chunk := nofun
  armed := nofun
  channel := ⟨hrem, hactive⟩
  waits := h.waits
  noFault := h.noFault
  form := h.form

theorem State.Inv.setCh_idle {s : State} (h : s.Inv) (hidle : s.engine = .idle) (d : Bool) :
    (s.setCh { s.ch with done := d }).Inv := by
  obtain ⟨hrem, hactive⟩ := h.channel
  have hinv := h.idleChannel (c := { s.ch with done := d }) hrem hactive s.draws
  rwa [← hidle] at hinv

/-! ### The commands -/

theorem State.Inv.openRule {s : State} (h : s.Inv) (p : Nat) (m : Mode) (q : Port) : (openRule p m q s).Inv := by
  by_cases hbad : openRejected m q s = true
  · rw [openRule_rejected hbad]
    exact h.finish ..
  rw [openRule_accepted hbad]
  refine State.Inv.finish ?_ ..
  rw [openRejected_iff] at hbad
  push Not at hbad
  obtain ⟨hidle, hperiod, hle, hfits, hframe⟩ := hbad
  have hpos : q.arg2.toNat ≠ 0 := fun h0 => hperiod (BitVec.eq_of_toNat_eq h0)
  have hfin : (Window.opened q).fin.toNat = q.arg0.toNat + q.arg1.toNat := word_add_toNat _ _ hfits
  exact {
    session := nofun
    window := fun _ => ⟨Nat.pos_of_ne_zero hpos, hle, hfin, hfits, hframe, nofun⟩
    position := fun _ => ⟨Nat.le_refl _, by rw [hfin]; simp only [Window.opened]; omega, by simp [Window.opened]⟩
    chunk := fun hrun => absurd hrun hidle
    armed := fun hrun => absurd hrun hidle
    channel := h.channel
    waits := h.waits
    noFault := h.noFault
    form := h.form }

theorem State.Inv.closeRule {s : State} (h : s.Inv) (p : Nat) (q : Port) : (closeRule p q s).Inv := by
  cases hidle : s.engine with
  | running =>
    rw [closeRule_running hidle]
    exact h.finish ..
  | idle =>
    rw [closeRule_idle hidle]
    refine State.Inv.finish ?_ ..
    exact {
      session := fun _ => ⟨hidle, rfl⟩
      window := nofun
      position := nofun
      chunk := h.chunk
      armed := h.armed
      channel := h.channel
      waits := h.waits
      noFault := h.noFault
      form := h.form }

/-- The swap keeps a good window good, and its length and period. -/
theorem State.Inv.swappedWindow_good {s : State} (h : s.Inv) (ho : s.session = .opened) :
    s.swappedWindow.Good ∧ s.swappedWindow.len = s.win.len ∧ s.swappedWindow.period = s.win.period := by
  have hg := h.good ho
  unfold State.swappedWindow
  split
  next hswap =>
    rw [← Window.swapTo_eq]
    exact ⟨hg.swapTo (h.latched_le ho hswap.2), rfl, rfl⟩
  next => exact ⟨hg, rfl, rfl⟩

/-- An open session latches swaps in FRAME mode alone, where START and COMPLETE apply them (10_state.md R53). -/
theorem State.Inv.latchAfterStart_eq {s : State} (h : s.Inv) (ho : s.session = .opened) : s.latchAfterStart = false := by
  obtain ⟨-, -, -, -, -, hlatch⟩ := h.window ho
  unfold State.latchAfterStart
  split
  next => rfl
  next hmode => exact Bool.eq_false_iff.mpr fun hv => hmode (hlatch hv).1

theorem State.Inv.startRule {s : State} (h : s.Inv) (p : Nat) (q : Port) : (startRule p q s).Inv := by
  by_cases hbad : s.session = .closed ∨ s.engine = .running
  · rw [startRule_rejected hbad]
    exact h.finish ..
  obtain ⟨hs, he⟩ := not_or.mp hbad
  have ho := Session.eq_opened hs
  obtain ⟨hswap, hlen, hperiod⟩ := h.swappedWindow_good ho
  have hg : s.startedWindow.Good := hswap.restart.nextChunk
  have hc : s.startedWindow.Chunked := Window.nextChunk_chunked { s.swappedWindow with pos := s.swappedWindow.start }
  have hfirst : s.firstChunk ≠ 0 := by
    have hne := hg.chunk_ne_zero hc
    rwa [ne_eq, ← s.startWindow_chunk_eq_zero, s.startWindow_eq_started]
  rw [startRule_armed ho (EngineState.eq_idle he) hfirst, h.latchAfterStart_eq ho]
  exact (h.arm ho hg hc hlen hperiod .running s.notifyPending).finish ..

theorem State.Inv.stopRule {s : State} (h : s.Inv) (p : Nat) (q : Port) : (stopRule p q s).Inv := by
  obtain ⟨hrem, hactive⟩ := h.channel
  refine State.Inv.finish ?_ ..
  cases ha : s.ch.active with
  | false =>
    rw [State.stopChannel_inactive (s := s.setEngine .idle) ha]
    exact h.idleChannel hrem hactive s.draws
  | true =>
    obtain hdrain | habort := State.stopChannel_active (s := s.setEngine .idle) ha
    · rw [hdrain]
      exact h.idleChannel hrem hactive _
    · rw [habort]
      exact h.idleChannel (c := s.ch.aborted) (Nat.zero_le _) nofun _

theorem State.Inv.getoffRule {s : State} (h : s.Inv) (p : Nat) (q : Port) : (getoffRule p q s).Inv := by
  unfold Machine.getoffRule
  split <;> exact h.finish ..

theorem State.Inv.reqaddrRule {s : State} (h : s.Inv) (p : Nat) (q : Port) : (reqaddrRule p q s).Inv := by
  unfold Machine.reqaddrRule
  split_ifs with hclosed hperiod hover
  iterate 3 exact h.finish ..
  refine State.Inv.finish ?_ ..
  have ho := Session.eq_opened hclosed
  obtain ⟨hpos, hle, hfin, hfits, hframe, -⟩ := h.window ho
  exact {
    session := fun hc => absurd hc hclosed
    window := fun _ => ⟨hpos, hle, hfin, hfits, hframe, fun _ => ⟨Mode.eq_frame hperiod, not_lt.mp hover⟩⟩
    position := h.position
    chunk := h.chunk
    armed := h.armed
    channel := h.channel
    waits := h.waits
    noFault := h.noFault
    form := h.form }

theorem State.Inv.waitgenRule {s : State} (h : s.Inv) {p : Nat} {q : Port} (hq : s.ports[p]? = some q) :
    (waitgenRule p q s).Inv := by
  unfold Machine.waitgenRule
  split_ifs with hclosed hperiod hreached hpoll
  iterate 4 exact h.finish ..
  refine h.updPort fun q' hq' _ => ?_
  cases hq.symm.trans hq'
  exact Bool.eq_false_iff.mpr hreached

theorem State.Inv.runCmd {s : State} (h : s.Inv) {p : Nat} {q : Port} (hq : s.ports[p]? = some q) (c : Cmd) :
    (runCmd p c q s).Inv := by
  cases c with
  | openSession m => exact h.openRule p m q
  | close => exact h.closeRule p q
  | start => exact h.startRule p q
  | stop => exact h.stopRule p q
  | getoff => exact h.getoffRule p q
  | reqaddr => exact h.reqaddrRule p q
  | waitgen => exact h.waitgenRule hq

/-! ### The events -/

theorem State.beatEnabled_iff (s : State) (k : Nat) :
    s.beatEnabled k = true ↔ s.ch.active = true ∧ 1 ≤ k ∧ k ≤ s.ch.rem.toNat := by
  simp [State.beatEnabled]

/-- A beat ends the chunk with its last byte, and else counts down (41_engine.md R170). -/
theorem Channel.afterBeat_cases (c : Channel) {k : Nat} (hk : k ≤ c.rem.toNat) :
    ((c.afterBeat k).active = false ∧ (c.afterBeat k).done = true ∧ (c.afterBeat k).rem = 0#32 ∧ k = c.rem.toNat)
    ∨ ((c.afterBeat k).active = c.active ∧ (c.afterBeat k).done = c.done
      ∧ (c.afterBeat k).rem.toNat = c.rem.toNat - k ∧ k < c.rem.toNat) := by
  rw [c.afterBeat_eq hk]
  split
  next hlast => exact .inl ⟨rfl, rfl, rfl, hlast⟩
  next hmore =>
    have hlt := c.rem.isLt
    refine .inr ⟨rfl, rfl, ?_, by omega⟩
    simp only [BitVec.toNat_sub, BitVec.toNat_ofNat]
    omega

theorem State.Inv.beat {s : State} (h : s.Inv) {k : Nat} (he : s.beatEnabled k = true) : (s.beat k).Inv := by
  obtain ⟨hactive, hk, hrem⟩ := (s.beatEnabled_iff k).mp he
  obtain ⟨hle, hbound⟩ := h.channel
  obtain ⟨-, hfits⟩ := hbound hactive
  obtain ⟨hmem, hform⟩ := h.form
  obtain ⟨m, sink, n, d, hmove, hwf⟩ := s.moveBytes_frame k s.ch.next
  have hwf : Memory.wf m = true := hwf hmem (by unfold Channel.next; omega)
  obtain ⟨hsrc, hdst, hlen, -⟩ := s.ch.afterBeat_keeps k
  have hcount := s.ch.afterBeat_cases hrem
  rw [State.beat, hmove]
  refine ⟨h.session, h.window, h.position, h.chunk, fun hrun => ?_, ?_, h.waits, h.noFault, hwf, hform⟩
  · obtain ⟨hsrc', hdst', hlen', hstate⟩ := h.armed hrun
    refine ⟨hsrc.trans hsrc', hdst.trans hdst', hlen.trans hlen', ?_⟩
    obtain ⟨hoff, hdone, hzero, -⟩ | ⟨hon, hdone, hleft, hlt⟩ := hcount
    · exact .inr ⟨hoff, hdone, hzero⟩
    · have hnot : s.ch.done = false := by
        obtain ⟨-, hnot, -, -⟩ | ⟨hoff, -, -⟩ := hstate
        · exact hnot
        · simp [hactive] at hoff
      refine .inl ⟨hon.trans hactive, hdone.trans hnot, ?_, ?_⟩
      · simp only [State.setCh_ch, hleft]
        omega
      · simp only [State.setCh_ch, hleft, hlen]
        omega
  · simp only [State.ChannelInv, State.setCh_ch, hlen, hsrc]
    obtain ⟨hoff, -, hzero, -⟩ | ⟨-, -, hleft, hlt⟩ := hcount
    · exact ⟨by simp [hzero], by simp [hoff]⟩
    · exact ⟨by omega, fun _ => ⟨by omega, hfits⟩⟩

/-- COMPLETE of a running engine leaves the committed window's chunk armed: under the invariant there is one. -/
theorem State.Inv.complete_eq {s : State} (h : s.Inv) (hrun : s.engine = .running) : s.complete =
    { s with
      win := s.committedWindow.nextChunk
      pendValid := false
      ch := Channel.armed s.committedWindow.nextChunk
      raced := []
      notifyPending := if s.mode = .frame then .frame else .period }
    ∧ s.committedWindow.nextChunk.Good := by
  have ho := h.opened_of_running hrun
  have hgood := State.completeWindow_good (h.good ho) (h.chunk hrun) (h.latched_le ho)
  rw [s.completeWindow_eq_committed] at hgood
  obtain ⟨hg, hc⟩ := hgood
  have hne : s.committedWindow.nextChunk.chunk ≠ 0#32 := hg.chunk_ne_zero hc
  rw [State.complete_running hrun, State.rearm_armed hne, h.latchAfterStart_eq ho]
  exact ⟨rfl, hg⟩

/-- COMPLETE's window keeps the length and the period. -/
theorem State.committedWindow_keeps (s : State) :
    s.committedWindow.len = s.win.len ∧ s.committedWindow.period = s.win.period := by
  unfold State.committedWindow State.swappedWindow
  split <;> exact ⟨rfl, rfl⟩

theorem State.Inv.complete {s : State} (h : s.Inv) : s.complete.Inv := by
  cases he : s.engine with
  | idle =>
    rw [State.complete_idle he]
    exact h.setCh_idle he false
  | running =>
    obtain ⟨heq, hg⟩ := h.complete_eq he
    obtain ⟨hlen, hperiod⟩ := s.committedWindow_keeps
    rw [heq]
    exact h.arm (h.opened_of_running he) hg s.committedWindow.nextChunk_chunked hlen hperiod s.engine _

theorem setPE_and_fault {b : BitVec 2} (h : b &&& 0b10#2 = 0#2) : setPE b &&& 0b10#2 = 0#2 := by
  revert b
  decide

theorem clearOnes_and_fault {b : BitVec 2} (h : b &&& 0b10#2 = 0#2) (v : Word) : clearOnes b v &&& 0b10#2 = 0#2 := by
  have hand : ∀ x y : BitVec 2, x &&& 0b10#2 = 0#2 → x &&& y &&& 0b10#2 = 0#2 := by decide
  exact hand b _ h

/-- A released port waits for a target still ahead. -/
theorem Port.release_waits {g : Word} {q : Port} (hb : (q.release g).busy = true) :
    reached g (q.release g).waitTarget = false := by
  rw [Port.release_eq] at hb ⊢
  split_ifs at hb ⊢ with hrel
  exact Bool.eq_false_iff.mpr fun hr => hrel ⟨hb, hr⟩

theorem State.Inv.notify {s : State} (h : s.Inv) : s.notify.Inv := by
  obtain ⟨hfault, hstatus⟩ := h.noFault
  have hstatus := setPE_and_fault hstatus
  unfold State.notify
  split
  · refine ⟨h.session, h.window, h.position, h.chunk, h.armed, h.channel, fun q hq hb => ?_, ⟨hfault, hstatus⟩, ?_⟩
    · obtain ⟨q', -, rfl⟩ := List.mem_map.mp hq
      exact Port.release_waits hb
    · obtain ⟨hmem, hraced, hmin, hmax⟩ := h.form
      exact ⟨hmem, hraced, hmin.trans_eq (List.length_map _).symm, (List.length_map _).trans_le hmax⟩
  · exact ⟨h.session, h.window, h.position, h.chunk, h.armed, h.channel, h.waits, ⟨hfault, hstatus⟩, h.form⟩

theorem State.Inv.blockReset {s : State} (h : s.Inv) : s.blockReset.Inv where
  session _ := ⟨rfl, rfl⟩
  window := nofun
  position := nofun
  chunk := nofun
  armed := nofun
  channel := ⟨Nat.le_refl _, nofun⟩
  waits q hq hb := by
    obtain ⟨q', -, rfl⟩ := List.mem_map.mp hq
    cases hb
  noFault := ⟨rfl, BitVec.zero_and⟩
  form := by
    obtain ⟨hmem, -, hmin, hmax⟩ := h.form
    exact ⟨hmem, rfl, hmin.trans_eq (List.length_map _).symm, (List.length_map _).trans_le hmax⟩

theorem Port.setArg_keepsWait (k : Fin 4) (v : Word) (q : Port) :
    (q.setArg k v).busy = q.busy ∧ (q.setArg k v).waitTarget = q.waitTarget := by
  unfold Port.setArg
  split_ifs <;> exact ⟨rfl, rfl⟩

/-! ### The step -/

theorem State.Inv.exec {s t : State} {i : Instr} (h : s.Inv) (hi : exec i s = .next t) : t.Inv := by
  cases exec_effect hi with
  | pass => exact h
  | command _ p c q _ _ hr => exact h.runCmd hr.1 c
  | illegal => exact h.finish ..
  | beat k he _ => exact h.beat he
  | complete _ => exact h.complete
  | notify _ => exact h.notify
  | waitTimeout => exact h.finish ..
  | strayDone he => exact h.setCh_idle he true
  | reset => exact h.blockReset
  | irqStatus _ v _ =>
    obtain ⟨hfault, hstatus⟩ := h.noFault
    exact ⟨h.session, h.window, h.position, h.chunk, h.armed, h.channel, h.waits,
      ⟨hfault, clearOnes_and_fault hstatus v⟩, h.form⟩
  | arg _ v p k _ =>
    refine h.updPort fun q hq hb => ?_
    obtain ⟨hbusy, htarget⟩ := q.setArg_keepsWait k v
    rw [htarget]
    exact h.waits q (List.mem_of_getElem? hq) (hbusy.symm.trans hb)
  | _ => exact ⟨h.session, h.window, h.position, h.chunk, h.armed, h.channel, h.waits, h.noFault, h.form⟩

/-- Settles O38: a step is an instruction, or a host's access that keeps memory and the raced list canonical. -/
theorem everyStepKeepsTheInvariant : Obligations.EveryStepKeepsTheInvariant := by
  intro s t h hstep
  cases step_blockStep hstep with
  | instr i f hs _ _ _ hi => exact (h.schedule f hs).exec hi
  | store a b l f ha hl _ ht =>
    obtain ⟨hmem, hraced, hports⟩ := h.form
    have hl : addrsRising 0 l = true := by
      obtain rfl | rfl := hl
      · exact hraced
      · exact addrsRising_insertAddr _ hraced (Nat.zero_le a)
    subst ht
    exact ⟨h.session, h.window, h.position, h.chunk, h.armed, h.channel, h.waits, h.noFault,
      Memory.wf_write _ b hmem ha, hl, hports⟩
  | quiet x d f _ ht =>
    subst ht
    exact ⟨h.session, h.window, h.position, h.chunk, h.armed, h.channel, h.waits, h.noFault, h.form⟩

end Sys2Proof.Machine
end

section
/-! # A stopped engine stays stopped

What a step can do to an Idle engine while nothing ahead opens, starts or resets (42_completion.md R204), and the induction
over the steps of a run. -/

namespace Sys2Proof.Machine

/-! ### Runs -/

/-- A run of one step more begins with a step that answers a next state. -/
theorem run_succ_next {n : Nat} {s t : State} (h : core.run (n + 1) s = .next t) :
    ∃ u, step s = .next u ∧ core.run n u = .next t := by
  simp only [Host.Core.run] at h
  split at h
  next u hu => exact ⟨u, hu, h⟩
  next => cases h
  next => cases h

/-! ### What lies ahead -/

/-- No item of the feed and no operation left in a host program opens, starts or resets. -/
def State.NoRestartAhead (s : State) : Prop := (∀ e ∈ s.feed, e.restarts = false) ∧ s.hostsRestart = false

theorem State.hostsRestart_eq_false (s : State) :
    s.hostsRestart = false ↔ ∀ l ∈ s.hosts, ∀ op ∈ l, op.instr.restarts = false := by
  simp [State.hostsRestart]

theorem Instr.restarts_of_issues_none {i : Instr} (hr : i ≠ .reset) (hn : i.issues = none) : i.restarts = false := by
  simp [Instr.restarts, hr, hn]

/-- An instruction that does not restart is no RESET, no OPEN and no START. -/
theorem Instr.of_restarts_eq_false {i : Instr} (h : i.restarts = false) :
    i ≠ .reset ∧ ∀ p c, i.issues = some (p, c) → (∀ m, c ≠ .openSession m) ∧ c ≠ .start := by
  rw [Instr.restarts, Bool.or_eq_false_iff, decide_eq_false_iff_not] at h
  obtain ⟨hreset, hissues⟩ := h
  refine ⟨hreset, fun p c hc => ?_⟩
  rw [hc] at hissues
  constructor
  · rintro m rfl
    cases hissues
  · rintro rfl
    cases hissues

theorem State.NoRestartAhead.instr {s : State} (h : s.NoRestartAhead) {i : Instr} (hi : InstrSource s i) :
    i.restarts = false := by
  obtain ⟨hfeed, hhosts⟩ := h
  cases hi with
  | item e he hd =>
    have hres := hfeed e he
    rwa [Entry.restarts, hd] at hres
  | hostOp l op hl ho hi =>
    rw [hi]
    exact s.hostsRestart_eq_false.mp hhosts l hl op ho
  | illegalWord off w hi hn => exact Instr.restarts_of_issues_none (by simp [hi]) hn

/-- What a step leaves of the host programs holds no new operation. -/
theorem State.HostsLeft.subset {s : State} {hs : List (List HostOp)} (h : s.HostsLeft hs) {l : List HostOp} (hl : l ∈ hs) :
    ∃ l' ∈ s.hosts, ∀ op ∈ l, op ∈ l' := by
  obtain rfl | ⟨m, op, ops, hm, rfl⟩ := h
  · exact ⟨l, hl, fun _ => id⟩
  · obtain hl | rfl := List.mem_or_eq_of_mem_set hl
    · exact ⟨l, hl, fun _ => id⟩
    · exact ⟨op :: l, List.mem_of_getElem? hm, fun _ => List.mem_cons_of_mem op⟩

theorem State.NoRestartAhead.of_subset {s t : State} (h : s.NoRestartAhead) (hf : ∀ e ∈ t.feed, e ∈ s.feed)
    (hh : s.HostsLeft t.hosts) : t.NoRestartAhead := by
  obtain ⟨hfeed, hhosts⟩ := h
  refine ⟨fun e he => hfeed e (hf e he), t.hostsRestart_eq_false.mpr fun l hl op ho => ?_⟩
  obtain ⟨l', hl', hsub⟩ := hh.subset hl
  exact s.hostsRestart_eq_false.mp hhosts l' hl' op (hsub op ho)

/-! ### What a stopped engine keeps -/

/-- `t` is `s` with its engine still stopped: nothing re-armed, advanced or notified. -/
structure State.StaysStopped (s t : State) : Prop where
  engine : t.engine = .idle
  pos : t.win.pos = s.win.pos
  chunk : t.win.chunk = s.win.chunk
  src : t.ch.src = s.ch.src
  len : t.ch.len = s.ch.len
  rem : t.ch.rem.toNat ≤ s.ch.rem.toNat
  active : t.ch.active = true → s.ch.active = true
  notify : t.notifyPending = s.notifyPending ∨ t.notifyPending = .none

theorem State.StaysStopped.trans {s t u : State} (h : s.StaysStopped t) (h' : t.StaysStopped u) : s.StaysStopped u where
  engine := h'.engine
  pos := h'.pos.trans h.pos
  chunk := h'.chunk.trans h.chunk
  src := h'.src.trans h.src
  len := h'.len.trans h.len
  rem := h'.rem.trans h.rem
  active hu := h.active (h'.active hu)
  notify := by
    obtain hu | hu := h'.notify
    · exact h.notify.imp hu.trans hu.trans
    · exact .inr hu

/-- A change of no element that matters here. -/
theorem State.StaysStopped.of_eq {s t : State} (hidle : t.engine = .idle) (hwin : t.win = s.win) (hch : t.ch = s.ch)
    (hn : t.notifyPending = s.notifyPending ∨ t.notifyPending = .none) : s.StaysStopped t :=
  ⟨hidle, by rw [hwin], by rw [hwin], by rw [hch], by rw [hch], by rw [hch], by rw [hch]; exact id, hn⟩

/-- A command that neither opens nor starts can idle the engine and abort the chunk, no more. -/
theorem CmdWrites.staysStopped {s t : State} {p : Nat} {c : Cmd} (h : CmdWrites s p c t) (hidle : s.engine = .idle)
    (hopen : ∀ m, c ≠ .openSession m) (hstart : c ≠ .start) : s.StaysStopped t := by
  obtain ⟨-, -, -, hnotify, -⟩ := h.frameFields
  have hwin : t.win = s.win := by
    by_contra hne
    obtain ⟨m, hm⟩ | hm := h.win hne
    · exact hopen m hm
    · exact hstart hm
  have hengine : t.engine = .idle := by
    by_contra hne
    have hmoved : t.engine ≠ s.engine := fun he => hne (he.trans hidle)
    obtain ⟨hm, -⟩ | ⟨-, hm⟩ := h.engine hmoved
    · exact hstart hm
    · exact hne hm
  by_cases hstop : c = .stop
  · obtain hch | hch := h.stop hstop
    · exact .of_eq hengine hwin hch (.inl hnotify)
    · refine ⟨hengine, by rw [hwin], by rw [hwin], by rw [hch], by rw [hch], ?_, ?_, .inl hnotify⟩ <;> simp [hch]
  · exact .of_eq hengine hwin (h.keepsEngine hstart hstop).1 (.inl hnotify)

theorem State.beat_notifyPending (k : Nat) (s : State) : (s.beat k).notifyPending = s.notifyPending := by
  obtain ⟨_, _, _, _, hmoved, -⟩ := s.moveBytes_frame k s.ch.next
  rw [State.beat, hmoved]
  rfl

@[simp] theorem State.beat_ch (k : Nat) (s : State) : (s.beat k).ch = s.ch.afterBeat k := rfl

theorem State.beat_staysStopped {s : State} {k : Nat} (hidle : s.engine = .idle) (he : s.beatEnabled k = true) :
    s.StaysStopped (s.beat k) := by
  obtain ⟨hactive, -, hrem⟩ := (s.beatEnabled_iff k).mp he
  obtain ⟨hsrc, -, hlen, hle⟩ := s.ch.afterBeat_keeps k
  obtain ⟨hk, -⟩ := s.beat_keeps k
  exact ⟨hk.engine.trans hidle, by rw [hk.win], by rw [hk.win], hsrc, hlen, hle, fun _ => hactive,
    .inl (s.beat_notifyPending k)⟩

theorem State.setCh_done_staysStopped {s : State} (hidle : s.engine = .idle) (d : Bool) :
    s.StaysStopped (s.setCh { s.ch with done := d }) :=
  ⟨hidle, rfl, rfl, rfl, rfl, Nat.le_refl _, id, .inl rfl⟩

theorem exec_staysStopped {i : Instr} {s t : State} (h : exec i s = .next t) (hidle : s.engine = .idle)
    (hi : i.restarts = false) : s.StaysStopped t := by
  obtain ⟨hreset, hcmd⟩ := Instr.of_restarts_eq_false hi
  cases exec_effect h with
  | command _ p c q hc _ _ =>
    obtain ⟨hopen, hstart⟩ := hcmd p c hc
    exact (runCmd_writes p c q s).staysStopped hidle hopen hstart
  | beat k he _ => exact State.beat_staysStopped hidle he
  | complete _ =>
    rw [State.complete_idle hidle]
    exact State.setCh_done_staysStopped hidle false
  | notify _ =>
    have hk := s.notify_keepsControl
    exact .of_eq (hk.engine.trans hidle) hk.win s.notify_ch (.inr s.notify_notifyPending)
  | strayDone _ => exact State.setCh_done_staysStopped hidle true
  | reset => exact absurd rfl hreset
  | _ => exact .of_eq hidle rfl rfl (.inl rfl)

/-- One step of a stopped engine, and what then lies ahead. -/
theorem step_staysStopped {s t : State} (h : step s = .next t) (hidle : s.engine = .idle) (ha : s.NoRestartAhead) :
    s.StaysStopped t ∧ t.NoRestartAhead := by
  cases step_blockStep h with
  | instr i f hs hsrc hf hh hi =>
    have hstay := exec_staysStopped hi hidle (ha.instr hsrc)
    obtain ⟨hkeep, -⟩ := exec_keeps hi
    refine ⟨⟨hstay.engine, hstay.pos, hstay.chunk, hstay.src, hstay.len, hstay.rem, hstay.active, hstay.notify⟩,
      ha.of_subset ?_ ?_⟩
    · rw [hkeep.feed]
      exact hf
    · rw [hkeep.hosts]
      exact hh
  | store a b l f _ _ hf ht =>
    subst ht
    exact ⟨.of_eq hidle rfl rfl (.inl rfl), ha.of_subset hf (.inl rfl)⟩
  | quiet x d f hf ht =>
    subst ht
    exact ⟨.of_eq hidle rfl rfl (.inl rfl), ha.of_subset hf (.inl rfl)⟩

theorem run_staysStopped (n : Nat) {s t : State} (h : core.run n s = .next t) (hidle : s.engine = .idle)
    (ha : s.NoRestartAhead) : s.StaysStopped t := by
  induction n generalizing s with
  | zero =>
    cases h
    exact .of_eq hidle rfl rfl (.inl rfl)
  | succ n ih =>
    obtain ⟨u, hu, hrun⟩ := run_succ_next h
    obtain ⟨hstay, ha'⟩ := step_staysStopped hu hidle ha
    exact hstay.trans (ih hrun hstay.engine ha')

/-- Settles O51: by induction over the steps; that nothing ahead restarts is kept with it. -/
theorem stoppedEngineNeverAdvances : Obligations.StoppedEngineNeverAdvances := by
  intro n s t hidle hfeed hhosts h
  have hstay := run_staysStopped n h hidle ⟨hfeed, hhosts⟩
  exact ⟨hstay.engine, hstay.pos, hstay.chunk, hstay.src, hstay.len, hstay.rem, hstay.active, hstay.notify⟩

end Sys2Proof.Machine
end

section
/-! # The chunk sequence and the offset

The tracker's cycle over a buffer (40_tracker.md R133, R134), the shape of a FRAME session (44_vsync.md R258), and the
offset that GETOFF reports in the states of the invariant (43_position.md R221 to R224). -/

namespace Sys2Proof.Machine

/-! ### The cycle of chunks -/

/-- The number of chunks of period `p` in a buffer of length `l`: one more than the whole ones where a rest is left. -/
def cycleLength (l p : Nat) : Nat := l / p + (if 0 < l % p then 1 else 0)

/-- Chunk `j` begins inside the buffer exactly when it is one of the cycle. -/
theorem lt_cycleLength_iff {l p j : Nat} (hp : 0 < p) : j < cycleLength l p ↔ p * j < l := by
  have hdiv := Nat.div_add_mod l p
  have hmod := Nat.mod_lt l hp
  have hwhole : p * j < p * (l / p) ↔ j < l / p := Nat.mul_lt_mul_left hp
  have hnext : p * (l / p + 1) ≤ p * j ↔ l / p + 1 ≤ j := Nat.mul_le_mul_left_iff hp
  rw [Nat.mul_add, Nat.mul_one] at hnext
  have hlast : p * j ≤ p * (l / p) ↔ j ≤ l / p := Nat.mul_le_mul_left_iff hp
  unfold cycleLength
  split <;> omega

/-- Where chunk `n` stands in its cycle, and where the next one does. -/
theorem mod_cycle_succ (n c : Nat) : (n + 1) % c = if n % c + 1 = c then 0 else (n % c + 1) % c := by
  rw [← Nat.mod_add_mod n c 1]
  split
  next h => rw [h, Nat.mod_self]
  next => rfl

/-- `v` is window `w` at the chunk that begins `j` periods from the start of the buffer. -/
structure Window.AtChunk (w v : Window) (j : Nat) : Prop where
  start : v.start = w.start
  fin : v.fin = w.fin
  period : v.period = w.period
  pos : v.pos.toNat = w.start.toNat + w.period.toNat * j
  chunked : v.Chunked

/-- One step of the tracker goes to the next chunk of the cycle, and from the last one to the first (40_tracker.md R133). -/
theorem Window.AtChunk.trackNext {w v : Window} {j : Nat} (h : w.AtChunk v j) (hp : 0 < w.period.toNat)
    (hfin : w.fin.toNat = w.start.toNat + w.len.toNat) (hj : j < cycleLength w.len.toNat w.period.toNat) :
    w.AtChunk v.trackNext (if j + 1 = cycleLength w.len.toNat w.period.toNat then 0 else j + 1) := by
  have hin : w.period.toNat * j < w.len.toNat := (lt_cycleLength_iff hp).mp hj
  have hnext : j + 1 < cycleLength w.len.toNat w.period.toNat ↔ w.period.toNat * j + w.period.toNat < w.len.toNat :=
    lt_cycleLength_iff hp
  have hchunk : v.chunk.toNat = min w.period.toNat (w.len.toNat - w.period.toNat * j) := by
    rw [h.chunked, h.period, h.fin, h.pos, hfin, Nat.add_sub_add_left]
  have hpos := h.pos
  have hle : v.pos.toNat + v.chunk.toNat ≤ v.fin.toNat := by
    rw [h.fin]
    omega
  have hmoved : (v.pos + v.chunk).toNat = v.pos.toNat + v.chunk.toNat :=
    BitVec.toNat_add_of_lt (Nat.lt_of_le_of_lt hle v.fin.isLt)
  refine ⟨by simp [h.start], by simp [h.fin], by simp [h.period], ?_, v.trackNext_chunked⟩
  rw [Window.trackNext_of_le_fin hle, Window.nextChunk_pos, h.fin]
  by_cases hlast : j + 1 = cycleLength w.len.toNat w.period.toNat
  · have hend : v.pos.toNat + v.chunk.toNat = w.fin.toNat := by omega
    rw [if_pos hend, if_pos hlast, h.start, Nat.mul_zero, Nat.add_zero]
  · have hin' : ¬ v.pos.toNat + v.chunk.toNat = w.fin.toNat := by omega
    rw [if_neg hin', if_neg hlast, hmoved, Nat.mul_add, Nat.mul_one]
    omega

theorem Window.atChunk_iterate {w : Window} (hp : 0 < w.period.toNat) (hle : w.period.toNat ≤ w.len.toNat)
    (hfin : w.fin.toNat = w.start.toNat + w.len.toNat) (n : Nat) :
    w.AtChunk (Window.trackNext^[n] (Window.nextChunk { w with pos := w.start }))
      (n % cycleLength w.len.toNat w.period.toNat) := by
  have hcycle : 0 < cycleLength w.len.toNat w.period.toNat := by
    rw [lt_cycleLength_iff hp]
    omega
  induction n with
  | zero => exact ⟨rfl, rfl, rfl, by simp, Window.nextChunk_chunked _⟩
  | succ n ih =>
    have hlt := Nat.mod_lt n hcycle
    have hstep := ih.trackNext hp hfin hlt
    rw [Function.iterate_succ_apply', mod_cycle_succ]
    split at hstep
    next hlast => rwa [if_pos hlast]
    next hmore => rwa [if_neg hmore, Nat.mod_eq_of_lt (by omega)]

/-- Settles O52: by induction on the chunk's number; a chunk is short only where the next period would pass the end. -/
theorem chunkSequenceRepeats : Obligations.ChunkSequenceRepeats := by
  intro w hp hle hfin q r cycle n v
  have hat : w.AtChunk v (n % cycle) := Window.atChunk_iterate hp hle hfin n
  have hcycle : 0 < cycle := (lt_cycleLength_iff hp).mpr (by omega)
  have hin : w.period.toNat * (n % cycle) < w.len.toNat := (lt_cycleLength_iff hp).mp (Nat.mod_lt n hcycle)
  have hchunk : v.chunk.toNat = min w.period.toNat (w.len.toNat - w.period.toNat * (n % cycle)) := by
    rw [hat.chunked, hat.period, hat.fin, hat.pos, hfin, Nat.add_sub_add_left]
  refine ⟨hat.pos, ?_, by omega⟩
  have hdiv : w.period.toNat * q + r = w.len.toNat := Nat.div_add_mod _ _
  have hrest : r < w.period.toNat := Nat.mod_lt _ hp
  have hlt : n % cycle < cycle := Nat.mod_lt n hcycle
  split
  next hwhole =>
    have hstep : w.period.toNat * (n % cycle + 1) ≤ w.period.toNat * q := Nat.mul_le_mul_left _ hwhole
    rw [Nat.mul_add, Nat.mul_one] at hstep
    omega
  next hshort =>
    have hlast : n % cycle = q := by
      have hbound : cycle ≤ q + 1 := by
        show q + (if 0 < r then 1 else 0) ≤ q + 1
        split <;> omega
      omega
    rw [hchunk, hlast]
    omega

/-! ### FRAME sessions -/

/-- Settles O55: the position is within the one period from the start. -/
theorem frameModeChunksAreFrames : Obligations.FrameModeChunksAreFrames := by
  intro s h ho hm
  obtain ⟨-, -, hfin, -, hframe, -⟩ := h.window ho
  obtain ⟨hge, hlt, haligned⟩ := h.position ho
  have hperiod : s.win.period = s.win.len := hframe hm
  rw [hperiod, Nat.mod_eq_of_lt (by omega)] at haligned
  have hpos : s.win.pos.toNat = s.win.start.toNat := by omega
  refine ⟨hperiod, BitVec.eq_of_toNat_eq hpos, fun hrun => BitVec.eq_of_toNat_eq ?_⟩
  rw [h.chunk hrun, hperiod, hfin, hpos]
  omega

/-! ### The offset -/

/-- Without a running engine or the counter nothing is in flight (43_position.md R220). -/
theorem State.inflight_eq_zero {s : State} (h : ¬ (s.engine = .running ∧ s.params.hasRemainingCounter = true)) :
    s.inflight = 0 :=
  if_neg h

theorem State.inflight_le_chunk (s : State) : s.inflight ≤ s.win.chunk.toNat := by
  unfold State.inflight
  split <;> omega

/-- What is in flight of a running engine with the counter: the bytes moved of the armed chunk. -/
theorem State.Inv.inflight_eq {s : State} (h : s.Inv) (hrun : s.engine = .running)
    (hcount : s.params.hasRemainingCounter = true) :
    s.inflight = s.win.chunk.toNat - s.ch.rem.toNat ∧ s.ch.rem.toNat ≤ s.win.chunk.toNat := by
  obtain ⟨-, -, hlen, -⟩ := h.armed hrun
  obtain ⟨hrem, -⟩ := h.channel
  rw [hlen] at hrem
  refine ⟨?_, hrem⟩
  rw [State.inflight, if_pos ⟨hrun, hcount⟩, Nat.min_eq_left hrem]

/-- A running engine with a fully moved chunk waits for COMPLETE (10_state.md R56). -/
theorem State.Inv.done_of_rem_eq_zero {s : State} (h : s.Inv) (hrun : s.engine = .running) (hz : s.ch.rem = 0#32) :
    s.ch.done = true := by
  obtain ⟨-, -, -, ⟨-, -, hpos, -⟩ | ⟨-, hdone, -⟩⟩ := h.armed hrun
  · simp [hz] at hpos
  · exact hdone

theorem State.Inv.rem_eq_zero_of_done {s : State} (h : s.Inv) (hrun : s.engine = .running) (hd : s.ch.done = true) :
    s.ch.rem = 0#32 := by
  obtain ⟨-, -, -, ⟨-, hnot, -, -⟩ | ⟨-, -, hz⟩⟩ := h.armed hrun
  · simp [hd] at hnot
  · exact hz

/-- 43_position.md R222: the clamp fires exactly at a fully moved last chunk. -/
theorem State.Inv.len_le_rawOffset_iff {s : State} (h : s.Inv) (ho : s.session = .opened) :
    s.win.len.toNat ≤ s.rawOffset ↔
      (s.engine = .running ∧ s.params.hasRemainingCounter = true ∧ s.ch.rem = 0#32
        ∧ s.win.pos.toNat + s.win.chunk.toNat = s.win.fin.toNat ∧ s.ch.done = true) := by
  have hg := h.good ho
  have hfin := hg.finEq
  have hge := hg.posGe
  have hlt := hg.posLt
  unfold State.rawOffset
  by_cases hflight : s.engine = .running ∧ s.params.hasRemainingCounter = true
  case neg =>
    rw [State.inflight_eq_zero hflight]
    refine ⟨fun hover => by omega, fun hfull => absurd ⟨hfull.1, hfull.2.1⟩ hflight⟩
  obtain ⟨hrun, hcount⟩ := hflight
  obtain ⟨heq, hrem⟩ := h.inflight_eq hrun hcount
  have hend := hg.chunk_le_fin (h.chunk hrun)
  rw [heq]
  constructor
  · intro hover
    have hz : s.ch.rem = 0#32 := BitVec.eq_of_toNat_eq (show s.ch.rem.toNat = 0 by omega)
    exact ⟨hrun, hcount, hz, by omega, h.done_of_rem_eq_zero hrun hz⟩
  · rintro ⟨-, -, hz, hlast, -⟩
    have hz : s.ch.rem.toNat = 0 := by simp [hz]
    omega

/-- Settles O53: the clamp reports 0 for the one value that reaches WIN_LEN. -/
theorem offsetStaysInRangeByTheClamp : Obligations.OffsetStaysInRangeByTheClamp := by
  intro s h ho
  refine ⟨fun p q hq => ⟨word s.offset, ?_, ?_⟩, h.len_le_rawOffset_iff ho⟩
  · exact (exec_onPort_ready hq .getoff).trans (congrArg _ (getoffRule_opened ho p q))
  · have hlen : 0 < s.win.len.toNat := (h.good ho).periodPos.trans_le (h.good ho).periodLe
    have hlt : s.offset < s.win.len.toNat := by
      unfold State.offset
      split <;> omega
    rwa [word, BitVec.toNat_ofNat, Nat.mod_eq_of_lt (hlt.trans s.win.len.isLt)]

/-- A beat moves bytes of the armed chunk, so it never lowers the offset (43_position.md R224). -/
theorem State.rawOffset_le_beat (s : State) (k : Nat) : s.rawOffset ≤ (s.beat k).rawOffset := by
  obtain ⟨hk, -⟩ := s.beat_keeps k
  obtain ⟨-, -, -, hrem⟩ := s.ch.afterBeat_keeps k
  have hparams := (s.beat_keepsSetup k).params
  have hflight : s.inflight ≤ (s.beat k).inflight := by
    unfold State.inflight
    rw [hk.engine, hparams, hk.win, State.beat_ch]
    split <;> omega
  rw [State.rawOffset, State.rawOffset, hk.win]
  omega

/-- After a COMPLETE without a wrap or a swap the offset is the committed position. -/
theorem State.Inv.complete_rawOffset {s : State} (h : s.Inv) (hrun : s.engine = .running)
    (hswap : s.mode = .period ∨ s.pendValid = false) (hin : s.win.pos.toNat + s.win.chunk.toNat < s.win.fin.toNat) :
    s.complete.rawOffset = s.win.pos.toNat + s.win.chunk.toNat - s.win.start.toNat
    ∧ s.complete.win.len = s.win.len := by
  obtain ⟨heq, -⟩ := h.complete_eq hrun
  have hsum : (s.win.pos + s.win.chunk).toNat = s.win.pos.toNat + s.win.chunk.toNat :=
    BitVec.toNat_add_of_lt (hin.trans s.win.fin.isLt)
  have hcommit : s.committedWindow = { s.win with pos := s.win.pos + s.win.chunk } := by
    rw [State.committedWindow_unlatched (by simp [State.swapLatched_eq_false hswap]), Window.committed,
      if_neg (by omega)]
  rw [hcommit] at heq
  have hflight : s.complete.inflight = 0 := by
    rw [State.inflight, heq]
    simp [Channel.armed]
  rw [State.rawOffset, hflight, heq]
  exact ⟨congrArg (· - _) hsum, rfl⟩

/-- Settles O54: a beat counts down, and COMPLETE commits what was in flight. -/
theorem offsetIsMonotoneWithinACycle : Obligations.OffsetIsMonotoneWithinACycle := by
  intro s t h hrun
  refine ⟨fun k hk => ?_, fun hd hn hswap hin ht => ?_⟩
  · obtain rfl | ⟨-, -, rfl⟩ := beat_next hk
    · exact Nat.le_refl _
    · exact s.rawOffset_le_beat k
  cases (exec_complete_enabled hd hn).symm.trans ht
  have hg := h.good (h.opened_of_running hrun)
  have hfin := hg.finEq
  have hge := hg.posGe
  obtain ⟨hraw, hlen⟩ := h.complete_rawOffset hrun hswap hin
  have hle := s.inflight_le_chunk
  have hs : s.offset = s.win.pos.toNat - s.win.start.toNat + s.inflight := by
    rw [State.offset, State.rawOffset, if_neg (by omega)]
  have ht : s.complete.offset = s.win.pos.toNat + s.win.chunk.toNat - s.win.start.toNat := by
    rw [State.offset, hlen, hraw, if_neg (by omega)]
  refine ⟨fun hcount => ?_, by omega⟩
  have hz : s.ch.rem.toNat = 0 := by simp [h.rem_eq_zero_of_done hrun hd]
  obtain ⟨hflight, -⟩ := h.inflight_eq hrun hcount
  omega

end Sys2Proof.Machine
end

section
/-! # Host accesses and the raced bytes

What a host's store and load do at an address that names memory, and how an instruction moves the list of raced bytes
(20_memory.md R87). -/

namespace Sys2Proof.Machine

/-! ### The two accesses -/

/-- The list of raced bytes after a host's store at `a` (20_memory.md R87). -/
def State.racedAfterStore (s : State) (a : Nat) : List Nat :=
  if s.unmoved a = true ∧ s.params.direction = .memToSink then insertAddr s.raced a else s.raced

theorem State.mem_racedAfterStore (s : State) (a x : Nat) : x ∈ s.racedAfterStore a ↔
    x ∈ s.raced ∨ (x = a ∧ s.unmoved a = true ∧ s.params.direction = .memToSink) := by
  unfold State.racedAfterStore
  split
  next hrace => simp [mem_insertAddr, hrace]
  next hcalm => simp [hcalm]

theorem hostStore_present {a : Word} {s : State} (ha : s.params.admits a.toNat = true) (b : Byte) : hostStore a b s =
    .next { s with mem := Memory.write s.mem a.toNat b, raced := s.racedAfterStore a.toNat } := by
  unfold hostStore State.racedAfterStore
  rw [if_pos ha]
  by_cases hrace : s.unmoved a.toNat = true ∧ s.params.direction = .memToSink
  · simp [hrace, State.memWrite]
  · have hcalm : (s.unmoved a.toNat && decide (s.params.direction = .memToSink)) = false := by
      simpa using hrace
    simp [hcalm, hrace, State.memWrite]

/-- A load of a byte that the channel has yet to write is a draw between the old byte and the coming one. -/
theorem hostLoad_racing {a : Word} {s : State} (ha : s.params.admits a.toNat = true) (hu : s.unmoved a.toNat = true)
    (hd : s.params.direction = .sourceToMem) : ∃ y : Byte,
    hostLoad a s = .next { s with busData := y.setWidth 32, draws := s.draws + 1 }
    ∧ (y = s.memByte a.toNat ∨ y = s.comingByte a.toNat) := by
  refine ⟨if Config.hostReadsNew s.draws then s.comingByte a.toNat else s.memByte a.toNat, ?_, ?_⟩
  · simp [hostLoad, ha, hu, hd]
  · split
    · exact .inr rfl
    · exact .inl rfl

theorem hostLoad_calm {a : Word} {s : State} (ha : s.params.admits a.toNat = true)
    (hc : ¬ (s.unmoved a.toNat = true ∧ s.params.direction = .sourceToMem)) :
    hostLoad a s = .next { s with busData := (s.memByte a.toNat).setWidth 32 } := by
  have hcalm : (s.unmoved a.toNat && decide (s.params.direction = .sourceToMem)) = false := by
    simpa using hc
  simp [hostLoad, ha, hcalm]

/-! ### How an instruction moves the list -/

/-- From `s` to `t` the raced bytes are cleared, or they stay and neither does the channel become active nor the engine
run. -/
def State.ClearsOrKeepsRaces (s t : State) : Prop :=
  t.raced = [] ∨ (t.raced = s.raced ∧ (t.ch.active = true → s.ch.active = true)
    ∧ (t.engine = .running → s.engine = .running))

theorem State.rearm_raced (s : State) : s.rearm.raced = [] := by
  obtain ⟨c, harm⟩ := s.arm_eq
  obtain h | h := s.rearm_cases
  · rw [h, harm]
  · rw [h, harm]
    rfl

theorem State.complete_raced {s : State} (h : s.engine = .running) : s.complete.raced = [] := by
  rw [State.complete_running h]
  exact State.rearm_raced _

theorem startRule_races (p : Nat) (q : Port) (s : State) : s.ClearsOrKeepsRaces (startRule p q s) := by
  by_cases hbad : s.session = .closed ∨ s.engine = .running
  · rw [startRule_rejected hbad]
    exact .inr ⟨rfl, id, id⟩
  obtain ⟨hs, he⟩ := not_or.mp hbad
  by_cases hc : s.firstChunk = 0
  · rw [startRule_zeroLength (Session.eq_opened hs) (EngineState.eq_idle he) hc]
    exact .inl rfl
  · rw [startRule_armed (Session.eq_opened hs) (EngineState.eq_idle he) hc]
    exact .inl rfl

theorem stopRule_races (p : Nat) (q : Port) (s : State) : s.ClearsOrKeepsRaces (stopRule p q s) := by
  unfold stopRule
  cases ha : s.ch.active with
  | false =>
    rw [State.stopChannel_inactive (s := s.setEngine .idle) ha]
    exact .inr ⟨rfl, id, nofun⟩
  | true =>
    obtain h | h := State.stopChannel_active (s := s.setEngine .idle) ha
    · rw [h]
      exact .inr ⟨rfl, id, nofun⟩
    · rw [h]
      exact .inr ⟨rfl, nofun, nofun⟩

theorem runCmd_races (p : Nat) (c : Cmd) (q : Port) (s : State) : s.ClearsOrKeepsRaces (runCmd p c q s) := by
  have kept {t : State} (hr : t.raced = s.raced) (hch : t.ch = s.ch) (he : t.engine = s.engine) :
      s.ClearsOrKeepsRaces t := .inr ⟨hr, by rw [hch]; exact id, by rw [he]; exact id⟩
  cases c with
  | openSession m =>
    show s.ClearsOrKeepsRaces (openRule p m q s)
    unfold openRule
    split <;> exact kept rfl rfl rfl
  | close =>
    show s.ClearsOrKeepsRaces (closeRule p q s)
    unfold closeRule
    split <;> exact kept rfl rfl rfl
  | start => exact startRule_races p q s
  | stop => exact stopRule_races p q s
  | getoff =>
    show s.ClearsOrKeepsRaces (getoffRule p q s)
    unfold getoffRule
    split <;> exact kept rfl rfl rfl
  | reqaddr =>
    show s.ClearsOrKeepsRaces (reqaddrRule p q s)
    unfold reqaddrRule
    split_ifs <;> exact kept rfl rfl rfl
  | waitgen =>
    show s.ClearsOrKeepsRaces (waitgenRule p q s)
    unfold waitgenRule
    split_ifs <;> exact kept rfl rfl rfl

theorem exec_races {i : Instr} {s t : State} (h : exec i s = .next t) : s.ClearsOrKeepsRaces t := by
  cases exec_effect h with
  | command _ p c q _ _ _ => exact runCmd_races p c q s
  | beat k he _ =>
    obtain ⟨_, _, _, _, hmoved, -⟩ := s.moveBytes_frame k s.ch.next
    have hraced : (s.beat k).raced = s.raced := by
      rw [State.beat, hmoved]
      rfl
    exact .inr ⟨hraced, fun _ => ((s.beatEnabled_iff k).mp he).1, by rw [(s.beat_keeps k).1.engine]; exact id⟩
  | complete _ =>
    cases he : s.engine with
    | running => exact .inl (State.complete_raced he)
    | idle =>
      rw [State.complete_idle he]
      exact .inr ⟨rfl, id, id⟩
  | notify _ =>
    have hraced : s.notify.raced = s.raced := by
      unfold State.notify
      split <;> rfl
    exact .inr ⟨hraced, by rw [s.notify_ch]; exact id, by rw [s.notify_keepsControl.engine]; exact id⟩
  | reset => exact .inl rfl
  | _ => exact .inr ⟨rfl, id, id⟩

/-- Settles O59: the accesses by their equations, the marks by what each instruction does to the list. -/
theorem hostAccessRacesTheChannel : Obligations.HostAccessRacesTheChannel := by
  refine ⟨fun s a b ha => ⟨⟨_, _, hostStore_present ha b, Memory.read?_write_same _ _ b,
    fun x hx => Memory.read?_write_other _ b hx, s.mem_racedAfterStore a.toNat⟩, ?_⟩, fun s => ⟨?_, fun i t h => ?_⟩⟩
  · by_cases hrace : s.unmoved a.toNat = true ∧ s.params.direction = .sourceToMem
    · obtain ⟨hu, hd⟩ := hrace
      obtain ⟨y, hload, hy⟩ := hostLoad_racing ha hu hd
      refine ⟨_, y, hload, fun hcalm => ?_, hy⟩
      simp [hu, hd] at hcalm
    · exact ⟨s.draws, _, hostLoad_calm ha hrace, fun _ => rfl, .inl rfl⟩
  · obtain ⟨c, harm⟩ := s.arm_eq
    rw [harm]
  · have hraces := exec_races h
    refine ⟨fun x hx => ?_, ?_, fun _ hidle hrun => ?_, fun hoff hon => ?_⟩
    · obtain hclear | ⟨hkept, -, -⟩ := hraces
      · simp [hclear] at hx
      · rwa [hkept] at hx
    · rintro rfl hd hn hrun
      cases (exec_complete_enabled hd hn).symm.trans h
      exact State.complete_raced hrun
    · obtain hclear | ⟨-, -, hengine⟩ := hraces
      · exact hclear
      · exact absurd (hengine hrun) (by simp [hidle])
    · obtain hclear | ⟨-, hactive, -⟩ := hraces
      · exact hclear
      · simp [hactive hon] at hoff

end Sys2Proof.Machine
end

section
/-! # Assembled programs

A statement's accesses, turn by turn (30_encoding.md R111, R112): the ARG writes and the command word of OPEN, and the
repeated read of WAITDONE. -/

namespace Sys2Proof.Machine

/-! ### One turn -/

/-- A step that answers a next state, and the rest of the run. -/
theorem run_cons {n : Nat} {s t : State} (h : step s = .next t) : core.run (n + 1) s = core.run n t :=
  run_succ core n h

theorem run_one (s : State) : core.run 1 s = step s := by
  simp only [Host.Core.run]
  split <;> exact Eq.symm ‹_›

/-- `s` with the schedule `f`, the program `o` of host master `h` and the registers `r` of port `p`. -/
def State.hostAt (s : State) (h p : Nat) (f : List Entry) (o : List HostOp) (r : Port) : State :=
  { s with feed := f, hosts := s.hosts.set h o, ports := s.ports.set p r }

theorem List.set_of_getElem? {α : Type} {l : List α} {j : Nat} {x : α} (h : l[j]? = some x) : l.set j x = l := by
  obtain ⟨hj, rfl⟩ := List.getElem?_eq_some_iff.mp h
  exact List.set_getElem_self hj

theorem List.getElem?_set_of_some {α : Type} {l : List α} {j : Nat} {x : α} (h : l[j]? = some x) (y : α) :
    (l.set j y)[j]? = some y :=
  List.getElem?_set_self (List.getElem?_eq_some_iff.mp h).1

theorem State.hostAt_self {s : State} {h p : Nat} {q : Port} {prog : List HostOp} (hq : s.ports[p]? = some q)
    (hh : s.hosts[h]? = some prog) (f : List Entry) : s.hostAt h p f prog q = { s with feed := f } := by
  rw [State.hostAt, List.set_of_getElem? hq, List.set_of_getElem? hh]

/-- A turn at a write drops it from the program and performs it. -/
theorem step_hostAt_write {s : State} {h : Nat} {prog : List HostOp} (hh : s.hosts[h]? = some prog) (p : Nat)
    (f : List Entry) (off : Nat) (v : Word) (o : List HostOp) (r : Port) :
    step (s.hostAt h p (.hostTurn h :: f) (asmWr off v :: o) r)
      = exec (.mmioWrite (BitVec.ofNat 12 off) .w32 v) (s.hostAt h p f o r) := by
  have hprog : (s.hostAt h p (.hostTurn h :: f) (asmWr off v :: o) r).hosts[h]? = some (asmWr off v :: o) :=
    List.getElem?_set_of_some hh _
  rw [step_hostTurn rfl hprog]
  simp [State.hostAt, asmWr, HostOp.instr]

/-- A turn at the write of an ARG register (30_encoding.md R111). -/
theorem step_hostAt_arg {s : State} {h p : Nat} {q : Port} {prog : List HostOp} (hq : s.ports[p]? = some q)
    (hh : s.hosts[h]? = some prog) (hp : p < Config.maxPorts) (f : List Entry) (k : Fin 4) (v : Word) (o : List HostOp)
    (r : Port) : step (s.hostAt h p (.hostTurn h :: f) (asmWr (portBase p + 4 * k) v :: o) r)
      = .next (s.hostAt h p f o (r.setArg k v)) := by
  have hport : (s.hostAt h p f o r).ports[p]? = some r := List.getElem?_set_of_some hq _
  have ho := portOffset_toNat hp (sub := 4 * k) (by omega)
  rw [step_hostAt_write hh, (exec_mmio_arg hport k ho).2]
  simp [State.hostAt]

/-- The five turns of an OPEN statement: four ARG writes, then the command word. -/
theorem run_open {s : State} {h p : Nat} {q : Port} {ops : List HostOp} (hq : s.ports[p]? = some q)
    (hp : p < Config.maxPorts) (m : Mode) (a len per sink : Word) (rest : List Entry)
    (hh : s.hosts[h]? = some (asmProgram [.openS p m a len per sink] ++ ops)) :
    core.run 5 { s with feed := List.replicate 5 (.hostTurn h) ++ rest }
      = exec (.openCmd p m) (s.hostAt h p rest ops { q with arg0 := a, arg1 := len, arg2 := per, arg3 := sink }) := by
  have hissue := step_hostAt_write hh p rest (portBase p + 0x10) (Cmd.openSession m).word ops
    { q with arg0 := a, arg1 := len, arg2 := per, arg3 := sink }
  rw [exec_mmioWrite_cmd hp, State.issue_of_decode (decodeCmd_word _), ← exec_onPort] at hissue
  refine (congrArg (core.run 5) (State.hostAt_self hq hh (List.replicate 5 (.hostTurn h) ++ rest)).symm).trans ?_
  refine (run_cons (step_hostAt_arg hq hh hp _ 0 a _ q)).trans ?_
  refine (run_cons (step_hostAt_arg hq hh hp _ 1 len _ _)).trans ?_
  refine (run_cons (step_hostAt_arg hq hh hp _ 2 per _ _)).trans ?_
  refine (run_cons (step_hostAt_arg hq hh hp _ 3 sink _ _)).trans ?_
  exact (run_one _).trans hissue

theorem exec_mmioRead_pstatus {s : State} {p : Nat} {q : Port} (hp : p < Config.maxPorts) (hq : s.ports[p]? = some q) :
    exec (.mmioRead (BitVec.ofNat 12 (portBase p + 0x18)) .w32) s = .next { s with busData := q.pstatus } := by
  have ho := portOffset_toNat hp (sub := 0x18) (by decide)
  rw [exec_mmioRead_w32 (by omega) (regOf_pstatus hp), State.regRead, State.portRead_present hq]

/-- A turn at WAITDONE reads PSTATUS, and drops it from the program where its port is not BUSY (30_encoding.md R112). -/
theorem step_waitdone {s : State} {h p : Nat} {q : Port} {ops : List HostOp} (hq : s.ports[p]? = some q)
    (hh : s.hosts[h]? = some (.waitdone p :: ops)) (hp : p < Config.maxPorts) (f : List Entry) :
    step { s with feed := .hostTurn h :: f }
      = .next { s with feed := f, busData := q.pstatus, hosts := if q.busy then s.hosts else s.hosts.set h ops } := by
  refine (step_hostTurn (s := { s with feed := .hostTurn h :: f }) rfl hh).trans ?_
  simp only [HostOp.again_feed, HostOp.again_waitdone hp hq]
  exact exec_mmioRead_pstatus hp hq

/-- Any number of turns at a WAITDONE of a BUSY port only read. -/
theorem run_waitdone_busy {s : State} {h p : Nat} {q : Port} {ops : List HostOp} (hq : s.ports[p]? = some q)
    (hh : s.hosts[h]? = some (.waitdone p :: ops)) (hp : p < Config.maxPorts) (hb : q.busy = true) (n : Nat)
    (rest : List Entry) : core.run n { s with feed := List.replicate n (.hostTurn h) ++ rest }
      = .next { s with feed := rest, busData := if n = 0 then s.busData else q.pstatus } := by
  induction n generalizing s with
  | zero => rfl
  | succ n ih =>
    have hstep := step_waitdone hq hh hp (List.replicate n (.hostTurn h) ++ rest)
    rw [hb, if_pos rfl] at hstep
    refine ((run_cons hstep).trans (ih (s := { s with busData := q.pstatus }) hq hh)).trans ?_
    simp

/-- Settles O60: OPEN and WAITDONE turn by turn, and each other statement by its expansion. -/
theorem assembledProgramsRunTheirAccesses : Obligations.AssembledProgramsRunTheirAccesses := by
  refine ⟨fun s h p q m a len per sink ops rest hq hp hh => ⟨rfl, run_open hq hp m a len per sink rest hh⟩,
    fun p x y v off => ⟨rfl, rfl, rfl, rfl, rfl, rfl, rfl, rfl, rfl, rfl, rfl, rfl, rfl⟩,
    fun s h p q ops rest hq hp hh => ⟨fun hb n => ?_, fun hb => ?_⟩⟩
  · have hbusy : q.busy = true := q.pstatus_fields.1.symm.trans hb
    exact run_waitdone_busy hq hh hp hbusy n rest
  · have hfree : q.busy = false := q.pstatus_fields.1.symm.trans hb
    have hstep := step_waitdone hq hh hp rest
    rw [hstep, hfree]
    rfl

end Sys2Proof.Machine
end

section
/-! # One frame confirms the swap

The schedule of one frame, item by item (44_vsync.md R246): REQADDR latches the address and answers the token, and from
then on each item keeps the request until COMPLETE applies it and NOTIFY counts GEN up to the token. -/

namespace Sys2Proof.Machine

/-- The run of the whole feed of `s` ends in a state with `P`. -/
def State.RunsOut (s : State) (P : State → Prop) : Prop := ∃ t, core.run s.feed.length s = .next t ∧ P t

/-- The first item of the feed, and the run of the others. -/
theorem State.RunsOut.cons {s t : State} {P : State → Prop} {i : Instr} {rest : List Entry} (hwf : i.wellFormed = true)
    (hf : s.feed = encode i :: rest) (h : exec i { s with feed := rest } = .next t) (ht : t.RunsOut P) : s.RunsOut P := by
  obtain ⟨u, hrun, hu⟩ := ht
  have hstep : step s = .next t :=
    (stepRunsTheDecodedInstruction s _ rest i hf (decodeOfEncodeIsIdentity i hwf)).trans h
  have hfeed : t.feed = rest := (exec_keeps h).1.feed
  refine ⟨u, ?_, hu⟩
  rw [hf, List.length_cons, run_cons hstep, ← hfeed]
  exact hrun

theorem State.RunsOut.nil {s : State} {P : State → Prop} (hf : s.feed = []) (hP : P s) : s.RunsOut P :=
  ⟨s, by rw [hf]; rfl, hP⟩

/-! ### The pending request -/

/-- Port `p` stands with the answer OK and `x`, and waits for nothing. -/
def State.Answered (s : State) (p : Nat) (x : Word) : Prop :=
  ∃ r, s.ports[p]? = some r ∧ r.busy = false ∧ r.code = .ok ∧ r.result = x

/-- A running FRAME session with a swap to `a` latched, whose REQADDR on port `p` was answered with the token that would
be answered now. -/
structure State.SwapRequested (s : State) (p : Nat) (a : Word) : Prop where
  inv : s.Inv
  running : s.engine = .running
  frame : s.mode = .frame
  addr : s.pendAddr = a
  latched : s.pendValid = true
  answered : s.Answered p s.token

/-- The swap to `a` has been applied and armed, and port `p` stands with the answer `x`. -/
structure State.SwapArmed (s : State) (p : Nat) (a x : Word) : Prop where
  src : s.ch.src = a
  active : s.ch.active = true
  start : s.win.start = a
  applied : s.pendValid = false
  answered : s.Answered p x

theorem State.SwapRequested.schedule {s : State} {p : Nat} {a : Word} (h : s.SwapRequested p a) (f : List Entry) :
    State.SwapRequested { s with feed := f } p a :=
  ⟨h.inv.schedule f s.hosts, h.running, h.frame, h.addr, h.latched, h.answered⟩

/-- NOTIFY releases no port that waits for nothing. -/
theorem State.Answered.notify {s : State} {p : Nat} {x : Word} (h : s.Answered p x) : s.notify.Answered p x := by
  obtain ⟨r, hr, hbusy, hcode, hres⟩ := h
  refine ⟨r, ?_, hbusy, hcode, hres⟩
  unfold State.notify
  split
  · simp [State.frameDone, hr, Port.release, hbusy]
  · exact hr

/-- A pending notification that is delivered leaves the token as it was: GEN counts it, or it counted no frame. -/
theorem State.notify_token {s : State} : s.notify.token = s.token := by
  rw [State.token, s.notify_notifyPending, s.notify_gen, State.token]
  split
  · simp [BitVec.add_assoc]
  · rfl

theorem State.SwapRequested.notify {s : State} {p : Nat} {a : Word} (h : s.SwapRequested p a) :
    s.notify.SwapRequested p a := by
  have hk := s.notify_keepsControl
  refine ⟨h.inv.notify, hk.engine.trans h.running, hk.mode.trans h.frame, hk.pendAddr.trans h.addr,
    hk.pendValid.trans h.latched, ?_⟩
  rw [State.notify_token]
  exact h.answered.notify

theorem State.SwapRequested.beat {s : State} {p k : Nat} {a : Word} (h : s.SwapRequested p a)
    (he : s.beatEnabled k = true) : (s.beat k).SwapRequested p a := by
  obtain ⟨hk, hcount⟩ := s.beat_keeps k
  have htoken : (s.beat k).token = s.token := by
    rw [State.token, hcount.gen, s.beat_notifyPending, State.token]
  refine ⟨h.inv.beat he, hk.engine.trans h.running, hk.mode.trans h.frame, hk.pendAddr.trans h.addr,
    hk.pendValid.trans h.latched, ?_⟩
  rw [htoken, State.Answered, s.beat_ports]
  exact h.answered

/-- REQADDR on a port that is ready, for a buffer that fits (44_vsync.md R245). -/
theorem exec_reqaddr_requests {s : State} {p : Nat} {q : Port} (h : s.Inv) (hq : s.Ready p q) (ho : s.session = .opened)
    (hm : s.mode = .frame) (hrun : s.engine = .running) (hfits : q.arg0.toNat + s.win.len.toNat ≤ maxAddr) :
    ∃ t, exec (.reqaddr p) s = .next t ∧ t.SwapRequested p q.arg0 ∧ t.ch = s.ch ∧ t.notifyPending = s.notifyPending
      ∧ t.params = s.params := by
  have hrule : exec (.reqaddr p) s = .next (reqaddrRule p q s) := exec_onPort_ready hq .reqaddr
  rw [reqaddrRule_frame ho hm, if_neg hfits.not_gt] at hrule
  refine ⟨_, hrule, ⟨h.exec hrule, hrun, hm, rfl, rfl, q.finish .ok s.token, ?_, rfl, rfl, rfl⟩, rfl, rfl, rfl⟩
  exact State.finish_port hq.1 rfl .ok s.token

/-- COMPLETE applies the swap and hands a frame over, which will count GEN up to the token. -/
theorem State.SwapRequested.complete {s : State} {p : Nat} {a : Word} (h : s.SwapRequested p a)
    (hn : s.notifyPending = .none) :
    s.complete.notifyPending = .frame ∧ s.complete.SwapArmed p a (s.complete.gen + 1#32) := by
  obtain ⟨heq, -⟩ := h.inv.complete_eq h.running
  have hwin : s.committedWindow = s.win.committed.swapTo a := by
    rw [State.committedWindow_latched (s.swapLatched_iff.mpr ⟨h.frame, h.latched⟩), h.addr]
  have hw := complete_writes s
  have htoken : s.complete.gen + 1#32 = s.token := by
    rw [hw.keepsCounters.gen, State.token, hn]
    rfl
  refine ⟨?_, ?_, ?_, ?_, ?_, ?_⟩
  · rw [heq]
    exact if_pos h.frame
  · rw [heq, hwin]
    rfl
  · rw [heq]
    rfl
  · rw [heq, hwin]
    rfl
  · rw [heq]
  · rw [htoken, State.Answered, hw.ports]
    exact h.answered

theorem State.SwapArmed.notify {s : State} {p : Nat} {a x : Word} (h : s.SwapArmed p a x) : s.notify.SwapArmed p a x := by
  have hk := s.notify_keepsControl
  exact ⟨by rw [s.notify_ch, h.src], by rw [s.notify_ch, h.active], by rw [hk.win, h.start],
    hk.pendValid.trans h.applied, h.answered.notify⟩

/-! ### The schedule of the frame -/

/-- The swap is confirmed: `SwapArmed` with GEN itself as the answer. -/
def State.SwapConfirmed (p : Nat) (a : Word) (t : State) : Prop := t.SwapArmed p a t.gen

/-- The end of the frame: COMPLETE and NOTIFY. -/
theorem State.SwapRequested.runsOut_moved {s : State} {p : Nat} {a : Word} (h : s.SwapRequested p a)
    (hn : s.notifyPending = .none) (hd : s.ch.done = true) (hf : s.feed = [encode .complete, encode .notify]) :
    s.RunsOut (State.SwapConfirmed p a) := by
  obtain ⟨hpending, harmed⟩ := (h.schedule [encode .notify]).complete hn
  have hfeed := (complete_writes { s with feed := [encode .notify] }).keeps.1.feed
  refine .cons rfl hf (exec_complete_enabled hd hn) ?_
  generalize State.complete { s with feed := [encode .notify] } = u at hpending harmed hfeed ⊢
  have hlast : State.SwapArmed { u with feed := [] } p a (u.gen + 1#32) :=
    ⟨harmed.src, harmed.active, harmed.start, harmed.applied, harmed.answered⟩
  refine .cons rfl hfeed (exec_notify_of_pending (s := { u with feed := [] }) (by simp [hpending])) ?_
  refine .nil (State.notify_keeps _).1.feed ?_
  rw [State.SwapConfirmed, State.notify_gen, if_pos hpending]
  exact hlast.notify

/-- The frame from what it has yet to move. -/
theorem State.SwapRequested.runsOut_moving {s : State} {p : Nat} {a : Word} (h : s.SwapRequested p a)
    (hn : s.notifyPending = .none) (hm : s.params.AdmitsRange s.ch.next s.ch.rem.toNat)
    (hf : s.feed = (if s.ch.active then [encode (.beat s.ch.rem.toNat)] else [])
      ++ [encode .complete, encode .notify]) : s.RunsOut (State.SwapConfirmed p a) := by
  obtain ⟨-, -, -, ⟨hactive, -, hpos, -⟩ | ⟨hoff, hdone, -⟩⟩ := h.inv.armed h.running
  case inr =>
    rw [hoff, if_neg Bool.false_ne_true] at hf
    exact h.runsOut_moved hn hdone hf
  rw [hactive, if_pos rfl] at hf
  have hlt := s.ch.rem.isLt
  have hwf : (Instr.beat s.ch.rem.toNat).wellFormed = true := decide_eq_true (by omega)
  have he : s.beatEnabled s.ch.rem.toNat = true := (s.beatEnabled_iff _).mpr ⟨hactive, hpos, Nat.le_refl _⟩
  have hnext := (h.schedule [encode .complete, encode .notify]).beat he
  refine .cons hwf hf (exec_beat_enabled (s := { s with feed := _ }) hactive hpos (Nat.le_refl _) hm) ?_
  refine hnext.runsOut_moved ((State.beat_notifyPending _ _).trans hn) ?_ (State.beat_keepsSetup _ _).feed
  obtain ⟨-, hdone, -⟩ | ⟨-, -, -, hless⟩ := s.ch.afterBeat_cases (Nat.le_refl _)
  · exact hdone
  · exact absurd hless (lt_irrefl _)

/-- The frame from the notification that is still pending, if there is one. -/
theorem State.SwapRequested.runsOut {s : State} {p : Nat} {a : Word} (h : s.SwapRequested p a)
    (hm : s.params.AdmitsRange s.ch.next s.ch.rem.toNat)
    (hf : s.feed = (if s.notifyPending = .none then [] else [encode .notify])
      ++ ((if s.ch.active then [encode (.beat s.ch.rem.toNat)] else []) ++ [encode .complete, encode .notify])) :
    s.RunsOut (State.SwapConfirmed p a) := by
  by_cases hn : s.notifyPending = .none
  · rw [if_pos hn] at hf
    exact h.runsOut_moving hn hm hf
  rw [if_neg hn] at hf
  have hnext := (h.schedule s.feed.tail).notify
  rw [hf] at hnext
  refine .cons rfl hf (exec_notify_of_pending hn) ?_
  refine hnext.runsOut_moving (State.notify_notifyPending _) ?_ ?_
  · rw [(State.notify_keeps _).1.params, State.notify_ch]
    exact hm
  · rw [(State.notify_keeps _).1.feed, State.notify_ch]
    rfl

/-- Settles O56: the items of the schedule one by one, each keeping the request until COMPLETE applies it. -/
theorem frameCycleConfirmsTheSwap : Obligations.FrameCycleConfirmsTheSwap := by
  intro s p q h hq ho hmode hrun hp hfits hm items
  have hitems : items = encode (.reqaddr p) :: ((if s.notifyPending = .none then [] else [encode .notify])
      ++ ((if s.ch.active then [encode (.beat s.ch.rem.toNat)] else []) ++ [encode .complete, encode .notify])) := by
    simp [items]
  generalize hrest : (if s.notifyPending = .none then [] else [encode .notify])
      ++ ((if s.ch.active then [encode (.beat s.ch.rem.toNat)] else []) ++ [encode .complete, encode .notify]) = rest
    at hitems
  obtain ⟨t, hexec, hreq, hch, hpending, hparams⟩ :=
    exec_reqaddr_requests (h.schedule rest s.hosts) hq ho hmode hrun hfits
  have hwf : (Instr.reqaddr p).wellFormed = true := decide_eq_true hp
  have hout : State.RunsOut { s with feed := items } (State.SwapConfirmed p q.arg0) := by
    refine .cons hwf hitems hexec (hreq.runsOut ?_ ?_)
    · rw [hparams, hch]
      exact hm
    · rw [(exec_keeps hexec).1.feed, hpending, hch]
      exact hrest.symm
  obtain ⟨u, hu, hsrc, hactive, hstart, happlied, r, hr, -, hcode, hres⟩ := hout
  exact ⟨u, r, hu, hsrc, hactive, hstart, happlied, hr, hcode, hres⟩

end Sys2Proof.Machine
end

section
/-! # Quiescence, the end of a run and fair progress

What quiescence is (70_reset_and_hazards.md R363), what a run that is over keeps, that a recorded FAULT stays (60_exceptions.md
R306), and what a weakly fair run must reach (R362). -/

namespace Sys2Proof

/-! ### The host accesses of the schedule -/

/-- An item that decodes is a host's access exactly if its instruction is. -/
theorem Entry.byHost_of_decode {e : Entry} {i : Instr} (h : decode e = .ok i) : e.byHost = i.byHost := by
  cases e with
  | command p w =>
    obtain ⟨-, c, -, rfl⟩ := decode_command.mp h
    cases c <;> rfl
  | event r =>
    have h : decodeEvent r = .ok i := h
    simp [Entry.byHost, h]
  | _ => cases h

end Sys2Proof

namespace Sys2Proof.Machine

/-! ### Quiescence -/

theorem State.completeEnabled_iff (s : State) :
    s.completeEnabled = true ↔ s.ch.done = true ∧ s.notifyPending = .none := by
  simp [State.completeEnabled]

/-- No fair step is enabled. -/
theorem State.fairEnabled_eq_false (s : State) : s.fairEnabled = false ↔
    s.someBeatEnabled = false ∧ s.completeEnabled = false ∧ s.notifyPending = .none ∧ ∀ q ∈ s.ports, q.busy = false := by
  simp [State.fairEnabled, State.notifyEnabled, State.someTimeoutEnabled, and_assoc]

theorem State.Quiescent.fairEnabled {s : State} (h : s.Quiescent) : s.fairEnabled = false := by
  obtain ⟨-, hactive, hdone, hnotify, hports⟩ := h
  rw [s.fairEnabled_eq_false]
  exact ⟨by simp [State.someBeatEnabled, State.beatEnabled, hactive], by simp [State.completeEnabled, hdone], hnotify,
    hports⟩

/-- Under the invariant an active channel has a byte to move, and a running engine a chunk in flight or moved. -/
theorem State.Inv.quiescent {s : State} (h : s.Inv) (hf : s.fairEnabled = false) : s.Quiescent := by
  obtain ⟨hbeat, hcomplete, hnotify, hports⟩ := s.fairEnabled_eq_false.mp hf
  have hactive : s.ch.active = false := by
    by_contra hon
    have hon := eq_true_of_ne_false hon
    have hen : s.someBeatEnabled = true := (s.beatEnabled_iff 1).mpr ⟨hon, Nat.le_refl 1, (h.channel.2 hon).1⟩
    simp [hbeat] at hen
  have hdone : s.ch.done = false := by
    by_contra hon
    have hen := s.completeEnabled_iff.mpr ⟨eq_true_of_ne_false hon, hnotify⟩
    simp [hcomplete] at hen
  refine ⟨EngineState.eq_idle fun hrun => ?_, hactive, hdone, hnotify, hports⟩
  obtain ⟨-, -, -, ⟨hon, -⟩ | ⟨-, hon, -⟩⟩ := h.armed hrun
  · simp [hactive] at hon
  · simp [hdone] at hon

theorem State.Inv.fairEnabled_of_running {s : State} (h : s.Inv) (hrun : s.engine = .running) : s.fairEnabled = true := by
  by_contra hoff
  have hidle := (h.quiescent (eq_false_of_ne_true hoff)).1
  simp [hrun] at hidle

/-! ### A run that is over -/

/-- The four fair events change nothing in a quiescent state (log entry 3). -/
theorem State.Quiescent.exec_event {s : State} (h : s.Quiescent) {i : Instr}
    (hi : i = .complete ∨ i = .notify ∨ (∃ k, i = .beat k) ∨ ∃ p, i = .waitTimeout p) : exec i s = .next s := by
  obtain ⟨-, hactive, hdone, hnotify, hports⟩ := h
  obtain ⟨hbeat, hcomplete, hpass, -, htimeout⟩ := disabledEventPassesItsTurn s
  obtain rfl | rfl | ⟨k, rfl⟩ | ⟨p, rfl⟩ := hi
  · exact hcomplete (.inl hdone)
  · exact hpass hnotify
  · exact hbeat k (.inl hactive)
  · exact htimeout p fun q hq => hports q (List.mem_of_getElem? hq)

theorem State.HostsEnded.no_op {s : State} (h : s.HostsEnded) {m : Nat} {op : HostOp} {ops : List HostOp} :
    s.hosts[m]? ≠ some (op :: ops) :=
  fun hm => nomatch h.1 _ (List.mem_of_getElem? hm)

theorem State.RunOver.step_hostTurn {s : State} (h : s.RunOver) (m : Nat) :
    step (s.withEntry (.hostTurn m)) = .next s := by
  refine step_hostTurn_passed (s := s.withEntry (.hostTurn m)) rfl ?_
  show s.hosts[m]? = none ∨ s.hosts[m]? = some []
  cases hm : s.hosts[m]? with
  | none => exact .inl rfl
  | some l =>
    rw [h.1.1 l (List.mem_of_getElem? hm)]
    exact .inr rfl

/-- A host access ahead keeps a run from being over. -/
theorem State.not_runOver_of_access {s : State}
    (h : (∃ (m : Nat) (op : HostOp) (ops : List HostOp), s.hosts[m]? = some (op :: ops)) ∨ ∃ e ∈ s.feed, e.byHost = true) :
    ¬ s.RunOver := by
  rintro ⟨hended, -⟩
  obtain ⟨m, op, ops, hm⟩ | ⟨e, he, hhost⟩ := h
  · exact hended.no_op hm
  · simp [hended.2 e he] at hhost

/-- The instructions of the block's own agents. -/
theorem Instr.of_byHost_eq_false {i : Instr} (h : i.byHost = false) :
    (i = .complete ∨ i = .notify ∨ (∃ k, i = .beat k) ∨ ∃ p, i = .waitTimeout p) ∨ i = .strayDone ∨ i = .reset := by
  cases i <;> simp [Instr.byHost] at h ⊢

theorem State.blockReset_quiescent (s : State) : s.blockReset.Quiescent := by
  refine ⟨rfl, rfl, rfl, rfl, fun q hq => ?_⟩
  obtain ⟨-, -, rfl⟩ := List.mem_map.mp hq
  rfl

/-- Every step but STRAY_DONE leaves a run that is over as it is, or resets the block (70_reset_and_hazards.md R363). -/
theorem State.RunOver.step {s t : State} (h : s.RunOver) (hstep : step s = .next t)
    (hstray : ∀ e rest, s.feed = e :: rest → decode e ≠ .ok .strayDone) : t.RunOver := by
  obtain ⟨hended, hquiet⟩ := h
  have tail {e : Entry} {rest : List Entry} (hf : s.feed = e :: rest) :
      e.byHost = false ∧ State.RunOver { s with feed := rest } := by
    obtain ⟨hhosts, hfeed⟩ := hended
    rw [hf] at hfeed
    exact ⟨hfeed e (by simp), ⟨hhosts, fun x hx => hfeed x (List.mem_cons_of_mem e hx)⟩, hquiet⟩
  cases step_effect hstep with
  | idle => exact ⟨hended, hquiet⟩
  | passed m rest hf _ => exact (tail hf).2
  | instr e rest i _ hf hd hi =>
    obtain ⟨hhost, hover⟩ := tail hf
    rw [Entry.byHost_of_decode hd] at hhost
    obtain hevent | rfl | rfl := Instr.of_byHost_eq_false hhost
    · cases (hover.2.exec_event hevent).symm.trans hi
      exact hover
    · exact absurd hd (hstray e rest hf)
    · cases hi
      exact ⟨hover.1, State.blockReset_quiescent _⟩
  | hostOp m rest op ops _ _ hh _ => exact absurd hh hended.no_op
  | illegal p w rest hf _ _ => cases (tail hf).1
  | hostStore a b rest _ hf _ => cases (tail hf).1
  | hostLoad a rest _ hf _ => cases (tail hf).1

/-! ### A recorded fault -/

/-- Only RESET clears FAULT_ZL (10_state.md R32). -/
theorem exec_keeps_fault {i : Instr} {s t : State} (h : exec i s = .next t) (hf : s.faultZl = true) (hi : i ≠ .reset) :
    t.faultZl = true := by
  obtain ⟨-, -, -, -, hclear⟩ := writersOfLatchAndFaultBit i s t h
  by_contra hoff
  exact hi (hclear hf (eq_false_of_ne_true hoff))

theorem step_keeps_fault {s t : State} {e : Entry} (h : step (s.withEntry e) = .next t) (hf : s.faultZl = true)
    (he : decode e ≠ .ok .reset) : t.faultZl = true := by
  cases step_effect h with
  | idle => exact hf
  | passed => exact hf
  | instr e' rest i _ hfeed hd hi =>
    cases hfeed
    refine exec_keeps_fault hi hf ?_
    rintro rfl
    exact he hd
  | hostOp m rest op ops _ _ _ hi => exact exec_keeps_fault hi hf (by cases op <;> simp [HostOp.instr])
  | illegal p w rest _ hp _ => exact exec_keeps_fault (exec_mmioWrite_cmd hp w _) hf (by simp)
  | hostStore a b rest _ _ hi =>
    obtain ⟨-, l, rfl, -⟩ := hostStore_next hi
    exact hf
  | hostLoad a rest _ _ hi =>
    obtain ⟨x, d, rfl⟩ := hostLoad_next hi
    exact hf

/-! ### Runs -/

theorem IsRun.exec {σ : Nat → Entry} {r : Nat → State} (h : IsRun σ r) {m : Nat} {i : Instr} (hi : decode (σ m) = .ok i) :
    exec i (r m) = .next (r (m + 1)) :=
  (step_withEntry hi).symm.trans (h m)

theorem IsRun.params {σ : Nat → Entry} {r : Nat → State} (h : IsRun σ r) (m : Nat) :
    (r m).params = (r 0).params ∧ (r m).ports.length = (r 0).ports.length := by
  induction m with
  | zero => exact ⟨rfl, rfl⟩
  | succ m ih =>
    obtain ⟨hparams, hports⟩ := parametersNeverChange _ _ (h m)
    exact ⟨hparams.trans ih.1, hports.trans ih.2⟩

theorem IsRun.inv {σ : Nat → Entry} {r : Nat → State} (h : IsRun σ r) (h0 : (r 0).Inv) (m : Nat) : (r m).Inv := by
  induction m with
  | zero => exact h0
  | succ m ih => exact everyStepKeepsTheInvariant _ _ (ih.schedule (σ m :: (r m).feed) (r m).hosts) (h m)

/-- A run that is over stays over, until a host or a stray completion comes. -/
theorem RunEndsAt.runOver {σ : Nat → Entry} {r : Nat → State} {n : Nat} (hend : RunEndsAt σ r n) (h : IsRun σ r)
    (hstray : ∀ m, n ≤ m → decode (σ m) ≠ .ok .strayDone) {m : Nat} (hm : n ≤ m) : (r m).RunOver := by
  obtain ⟨hover, hhosts⟩ := hend
  induction m, hm using Nat.le_induction with
  | base => exact hover
  | succ m hm ih =>
    obtain ⟨⟨hprog, hfeed⟩, hquiet⟩ := ih
    have hnext : ((r m).withEntry (σ m)).RunOver := by
      refine ⟨⟨hprog, fun e he => ?_⟩, hquiet⟩
      obtain rfl | he := List.mem_cons.mp he
      · exact hhosts m hm
      · exact hfeed e he
    refine hnext.step (h m) fun e rest hf => ?_
    cases hf
    exact hstray m hm

/-! ### Weak fairness -/

/-- In a weakly fair run a step is sooner or later not enabled, or taken. -/
theorem WeaklyFair.disabled_or_taken {σ : Nat → Entry} {r : Nat → State} (h : WeaklyFair σ r) (f : FairStep) (n : Nat) :
    ∃ m, n ≤ m ∧ (f.enabled (r m) = false ∨ f.taken (σ m) (r m)) := by
  by_cases hall : ∀ m, n ≤ m → f.enabled (r m) = true
  · obtain ⟨m, hm, htaken⟩ := h f n hall
    exact ⟨m, hm, .inr htaken⟩
  · push Not at hall
    obtain ⟨m, hm, hoff⟩ := hall
    exact ⟨m, hm, .inl (eq_false_of_ne_true hoff)⟩

/-- Settles O16: WAIT_TIMEOUT stays enabled while its port is BUSY, and the port does not go away. -/
theorem waitTimeoutEndsTheWait : Obligations.WaitTimeoutEndsTheWait := by
  refine ⟨fun s p q hq hb => exec_waitTimeout_enabled ((s.waitTimeoutEnabled_iff p).mpr ⟨q, hq, hb⟩),
    fun σ r hrun hfair n p q hq hb => ?_⟩
  have hport (m : Nat) : ∃ x, (r m).ports[p]? = some x := by
    obtain ⟨hlt, -⟩ := List.getElem?_eq_some_iff.mp hq
    have hlen : (r m).ports.length = (r n).ports.length := (hrun.params m).2.trans (hrun.params n).2.symm
    exact ⟨_, List.getElem?_eq_getElem (hlen ▸ hlt)⟩
  obtain ⟨m, hm, hoff | ⟨hd, hen⟩⟩ := hfair.disabled_or_taken (.waitTimeout p) n
  · obtain ⟨x, hx⟩ := hport m
    refine ⟨m, x, hm, hx, eq_false_of_ne_true fun hbusy => ?_⟩
    have hen := ((r m).waitTimeoutEnabled_iff p).mpr ⟨x, hx, hbusy⟩
    exact Bool.false_ne_true (hoff.symm.trans hen)
  · obtain ⟨x, hx⟩ := hport m
    have hnext : r (m + 1) = (r m).finish p .ok 0#32 :=
      Host.Outcome.next.inj ((hrun.exec hd).symm.trans (exec_waitTimeout_enabled hen))
    refine ⟨m + 1, x.finish .ok 0#32, by omega, ?_, rfl⟩
    rw [hnext]
    exact State.finish_port hx rfl .ok 0#32

theorem WeaklyFair.notification_delivered {σ : Nat → Entry} {r : Nat → State} (hfair : WeaklyFair σ r) (hrun : IsRun σ r)
    (n : Nat) : ∃ m, n ≤ m ∧ (r m).notifyPending = .none := by
  obtain ⟨m, hm, hoff | ⟨hd, hen⟩⟩ := hfair.disabled_or_taken .notify n
  · exact ⟨m, hm, not_not.mp (of_decide_eq_false hoff)⟩
  · have hnext : r (m + 1) = (r m).notify :=
      Host.Outcome.next.inj ((hrun.exec hd).symm.trans (exec_notify_of_pending (of_decide_eq_true hen)))
    exact ⟨m + 1, by omega, by rw [hnext, State.notify_notifyPending]⟩

/-- A notification is raised by COMPLETE alone, which takes the completion signal down (42_completion.md R190). -/
theorem exec_notifyPending {i : Instr} {s t : State} (h : exec i s = .next t) :
    t.notifyPending = s.notifyPending ∨ t.notifyPending = .none ∨ t.ch.done = false := by
  cases exec_effect h with
  | command _ p c q _ _ _ => exact .inl (runCmd_writes p c q s).frameFields.2.2.2.1
  | beat k _ _ => exact .inl (s.beat_notifyPending k)
  | complete _ => exact .inr (.inr s.complete_done)
  | notify _ => exact .inr (.inl s.notify_notifyPending)
  | reset => exact .inr (.inl rfl)
  | _ => exact .inl rfl

theorem step_notifyPending {s t : State} (h : step s = .next t) (hn : s.notifyPending = .none)
    (hd : t.ch.done = true) : t.notifyPending = .none := by
  cases step_blockStep h with
  | instr i f hs _ _ _ hi =>
    obtain hsame | hnone | hoff := exec_notifyPending hi
    · exact hsame.trans hn
    · exact hnone
    · simp [hd] at hoff
  | store a b l f _ _ _ ht => exact ht ▸ hn
  | quiet x d f _ ht => exact ht ▸ hn

/-- While the completion signal is up, no notification comes after the one pending; so COMPLETE stays enabled, and falls
due. -/
theorem WeaklyFair.completion_acknowledged {σ : Nat → Entry} {r : Nat → State} (hfair : WeaklyFair σ r) (hrun : IsRun σ r)
    (n : Nat) : ∃ m, n ≤ m ∧ (r m).ch.done = false := by
  by_contra hall
  push Not at hall
  have hdone (m : Nat) (hm : n ≤ m) : (r m).ch.done = true := eq_true_of_ne_false (hall m hm)
  obtain ⟨n', hn', hnone⟩ := hfair.notification_delivered hrun n
  have hfree (m : Nat) (hm : n' ≤ m) : (r m).notifyPending = .none := by
    induction m, hm using Nat.le_induction with
    | base => exact hnone
    | succ m hm ih => exact step_notifyPending (hrun m) ih (hdone (m + 1) (by omega))
  have hen (m : Nat) (hm : n' ≤ m) : FairStep.complete.enabled (r m) = true :=
    (r m).completeEnabled_iff.mpr ⟨hdone m (hn'.trans hm), hfree m hm⟩
  obtain ⟨m, hm, hd, -⟩ := hfair .complete n' hen
  have hnext : r (m + 1) = (r m).complete :=
    Host.Outcome.next.inj ((hrun.exec hd).symm.trans (exec_complete_enabled (hdone m (hn'.trans hm)) (hfree m hm)))
  exact hall (m + 1) (by omega) (by rw [hnext, State.complete_done])

/-- With memory at every address an active channel has a beat (20_memory.md R71, R72). -/
theorem State.Inv.beat_enabled {s : State} (h : s.Inv) (hholes : s.params.holes = []) (hactive : s.ch.active = true) :
    FairStep.beat.enabled s = true := by
  obtain ⟨hpos, hfits⟩ := h.channel.2 hactive
  have hen : s.someBeatEnabled = true := (s.beatEnabled_iff 1).mpr ⟨hactive, Nat.le_refl 1, hpos⟩
  have hnext : s.ch.next ≤ maxAddr := by
    unfold Channel.next
    omega
  have hadmits : s.params.admits s.ch.next = true := by
    rw [Params.admits, hholes]
    simpa using hnext
  exact Bool.and_eq_true_iff.mpr ⟨hen, hadmits⟩

/-- An enabled beat that answers a next state ends the chunk or counts it down. -/
theorem beat_next_progress {k : Nat} {s t : State} (h : exec (.beat k) s = .next t) (he : s.beatEnabled k = true) :
    t.ch.active = false ∨ t.ch.rem.toNat < s.ch.rem.toNat := by
  obtain ⟨-, hk, hrem⟩ := (s.beatEnabled_iff k).mp he
  have hbeat : t = s.beat k := by
    simp only [exec, execBeat, he, if_true] at h
    split at h <;> cases h
    rfl
  rw [hbeat, State.beat_ch]
  obtain ⟨hoff, -⟩ | ⟨-, -, hleft, -⟩ := s.ch.afterBeat_cases hrem
  · exact .inl hoff
  · exact .inr (by omega)

/-- By induction on CH_REM: while the chunk stays armed and never grows, each beat that fairness forces makes it less. -/
theorem WeaklyFair.chunk_ends {σ : Nat → Entry} {r : Nat → State} (hfair : WeaklyFair σ r) (hrun : IsRun σ r)
    (hinv : (r 0).Inv) (hholes : (r 0).params.holes = []) (n : Nat) :
    ∃ m, n ≤ m ∧ ((r m).ch.active = false ∨ (r m).ch.rem.toNat < (r (m + 1)).ch.rem.toNat) := by
  generalize hv : (r n).ch.rem.toNat = v
  induction v using Nat.strong_induction_on generalizing n with
  | _ v ih =>
    by_contra hall
    push Not at hall
    have hactive (m : Nat) (hm : n ≤ m) : (r m).ch.active = true := eq_true_of_ne_false (hall m hm).1
    have hle (m : Nat) (hm : n ≤ m) : (r m).ch.rem.toNat ≤ v := by
      induction m, hm using Nat.le_induction with
      | base => exact hv.le
      | succ m hm ih => exact (hall m hm).2.trans ih
    have hen (m : Nat) (hm : n ≤ m) : FairStep.beat.enabled (r m) = true :=
      (hrun.inv hinv m).beat_enabled ((congrArg Params.holes (hrun.params m).1).trans hholes) (hactive m hm)
    obtain ⟨m, hm, k, hd, hk⟩ := hfair .beat n hen
    obtain hoff | hless := beat_next_progress (hrun.exec hd) hk
    · exact (hall (m + 1) (by omega)).1 hoff
    · obtain ⟨m', hm', hend⟩ := ih _ (hless.trans_le (hle m hm)) (m + 1) rfl
      obtain ⟨hon, hmore⟩ := hall m' (by omega)
      exact hend.elim hon hmore.not_gt

/-- Settles O57: quiescence and the end of a run as properties of one state, then the run that is over by induction, then
each of the three fair agents. -/
theorem quiescenceAndFairProgress : Obligations.QuiescenceAndFairProgress := by
  refine ⟨fun s => ⟨State.Quiescent.fairEnabled, fun hoff hinv => hinv.quiescent hoff, fun hinv hrun => ?_,
      fun hover => ⟨hover.step_hostTurn, fun i hi => hover.2.exec_event hi⟩, fun haccess => ?_,
      fun t hover hstep hstray => hover.step hstep hstray, fun hover => ⟨fun hfinal => hfinal.2, fun hsafe => ⟨hover, hsafe⟩⟩,
      fun hfault => ⟨fun hfinal => ?_, fun e t hstep he hfinal => ?_⟩⟩,
    fun σ r n hrun hend hstray m hm => hend.runOver hrun hstray hm,
    fun σ r hrun hfair n => ⟨fun _ => hfair.notification_delivered hrun n, fun _ => hfair.completion_acknowledged hrun n,
      fun hinv hholes _ => hfair.chunk_ends hrun hinv hholes n⟩⟩
  · refine ⟨hinv.fairEnabled_of_running hrun, fun ⟨hidle, _⟩ => ?_⟩
    simp [hrun] at hidle
  · refine State.not_runOver_of_access ?_
    obtain hop | ⟨p, w, he⟩ | ⟨a, b, he⟩ | ⟨a, he⟩ | ⟨e, off, w, he, hd | ⟨v, hd⟩⟩ := haccess
    · exact .inl hop
    · exact .inr ⟨_, he, rfl⟩
    · exact .inr ⟨_, he, rfl⟩
    · exact .inr ⟨_, he, rfl⟩
    · exact .inr ⟨e, he, Entry.byHost_of_decode hd⟩
    · exact .inr ⟨e, he, Entry.byHost_of_decode hd⟩
  · exact Bool.false_ne_true (hfinal.2.symm.trans hfault)
  · exact Bool.false_ne_true (hfinal.2.symm.trans (step_keeps_fault hstep hfault he))

end Sys2Proof.Machine
end
